-- ==== Sys2Proof/Word.lean ====
section
/-! DEFINITION. Words, bytes and the datum type `F` (00_scope.md R13): the types, and no arithmetic. -/

namespace Sys2Proof

/-- A host-visible word: 32 bits, bit 0 least significant (00_scope.md R22, 20_memory.md R82, R84). -/
abbrev Word := BitVec 32

/-- One byte of a word as a byte bus sees it (20_memory.md R82). -/
abbrev Byte := BitVec 8

/-- The magnitude of a finite `F`: the low 31 bits of its word (exponent, fraction), below the pattern of infinity. -/
abbrev Mag := Fin 0x7F800000

/-- An IEEE 754 binary32 datum (00_scope.md R13): signed zeros, subnormals, infinities, and ONE NaN, whose payload and
sign the spec leaves unspecified (93_implementation_defined.md U3). `mag` is the word's bits 30:0. -/
inductive F where
  | nan
  | inf (neg : Bool)
  | fin (neg : Bool) (mag : Mag)
  deriving DecidableEq, Repr

/-- +0, the value of a cleared element (10_state.md section 5). -/
def F.zero : F := .fin false ⟨0, by decide⟩

end Sys2Proof
end

