-- ==== Sys2Proof/Machine/Float.lean ====
section
/-! DEFINITION. The basic operations of 00_scope.md R14, R17 and R18 on `F`, and the constants of R19.
Every finite datum is an integer multiple of 2^-149, its `units`; an operation computes the exact result and narrows it
once, to nearest, ties to even (R14). -/

namespace Sys2Proof

/-- The magnitude of a finite datum as an integer count of 2^-149 (IEEE 754 binary32: exponent in bits 30:23, fraction
in bits 22:0, 20_memory.md R82). -/
def Mag.units (m : Mag) : Nat :=
  if m.val / 2 ^ 23 = 0 then m.val % 2 ^ 23 else (2 ^ 23 + m.val % 2 ^ 23) * 2 ^ (m.val / 2 ^ 23 - 1)

namespace F

/-- View a 32-bit word as an `F` (R17 `frombits`). -/
def ofBits (w : Word) : F :=
  let m := w.toNat % 2 ^ 31
  if h : m < 0x7F800000 then .fin (w.getLsbD 31) ⟨m, h⟩
  else if m = 0x7F800000 then .inf (w.getLsbD 31) else .nan

/-- The magnitude bits of 2^-149 * n / d, rounded to nearest, ties to even: with the quotient's top bit at place
23 + k, the significand is n / (d * 2^k) rounded, and a carry out of it moves into the exponent by itself. -/
def roundBits (n d : Nat) : Nat :=
  let k := (n / d).log2 - 23
  let e := d * 2 ^ k
  let m := n / e
  let r := n % e
  k * 2 ^ 23 + (if e < 2 * r ∨ (2 * r = e ∧ m % 2 = 1) then m + 1 else m)

/-- The exact real ±2^-149 * n / d, narrowed (R14): overflow gives an infinity, subnormal results are kept. -/
def round (neg : Bool) (n d : Nat) : F :=
  if h : roundBits n d < 0x7F800000 then .fin neg ⟨roundBits n d, h⟩ else .inf neg

/-- A finite datum as a signed count of 2^-149. -/
def finUnits (neg : Bool) (m : Mag) : Int := if neg then -(m.units : Int) else m.units

/-- Flip the sign bit (R14); the one NaN keeps no sign. -/
def neg : F → F
  | .nan => .nan
  | .inf s => .inf (!s)
  | .fin s m => .fin (!s) m

/-- Clear the sign bit (R14). -/
def abs : F → F
  | .nan => .nan
  | .inf _ => .inf false
  | .fin _ m => .fin false m

/-- `fadd` (R14): an exact zero sum is +0 unless both operands are negative. -/
def add : F → F → F
  | .nan, _ => .nan
  | _, .nan => .nan
  | .inf s, .inf t => if s = t then .inf s else .nan
  | .inf s, .fin _ _ => .inf s
  | .fin _ _, .inf t => .inf t
  | .fin s m, .fin t n =>
    let v := finUnits s m + finUnits t n
    if v = 0 then .fin (s && t) ⟨0, by decide⟩ else round (decide (v < 0)) v.natAbs 1

/-- `fsub` (R14). -/
def sub (a b : F) : F := add a (neg b)

/-- `fmul` (R14). -/
def mul : F → F → F
  | .nan, _ => .nan
  | _, .nan => .nan
  | .inf s, .inf t => .inf (s ^^ t)
  | .inf s, .fin t n => if n.val = 0 then .nan else .inf (s ^^ t)
  | .fin s m, .inf t => if m.val = 0 then .nan else .inf (s ^^ t)
  | .fin s m, .fin t n => round (s ^^ t) (m.units * n.units) (2 ^ 149)

/-- `fdiv` (R14): x/0 for finite non-zero x gives an infinity, 0/0 and inf/inf give NaN. -/
def div : F → F → F
  | .nan, _ => .nan
  | _, .nan => .nan
  | .inf _, .inf _ => .nan
  | .inf s, .fin t _ => .inf (s ^^ t)
  | .fin s _, .inf t => .fin (s ^^ t) ⟨0, by decide⟩
  | .fin s m, .fin t n =>
    if n.val = 0 then (if m.val = 0 then .nan else .inf (s ^^ t))
    else round (s ^^ t) (m.units * 2 ^ 149) n.units

/-- Integer square root, two bits of the operand at a time. -/
def isqrtSteps : Nat → Nat → Nat
  | 0, _ => 0
  | k + 1, n =>
    let r := 2 * isqrtSteps k (n / 4)
    if (r + 1) * (r + 1) ≤ n then r + 1 else r

/-- The largest r with r * r ≤ n. -/
def isqrt (n : Nat) : Nat := isqrtSteps (n.log2 / 2 + 1) n

/-- `fsqrt` (R14): the root of m * 2^-149 is sqrt (m * 2^149) units; the bit below the integer root says whether the
exact root lies above it. -/
def sqrt : F → F
  | .nan => .nan
  | .inf s => if s then .nan else .inf false
  | .fin s m =>
    if m.val = 0 then .fin s m
    else if s then .nan
    else
      let t := m.units * 2 ^ 149
      let r := isqrt t
      round false (2 * r + (if r * r = t then 0 else 1)) 2

/-- Is the datum NaN? -/
def isNaN : F → Bool
  | .nan => true
  | _ => false

/-- `isfinite` (R18). -/
def isFinite : F → Bool
  | .fin _ _ => true
  | _ => false

/-- Is the datum a zero of either sign? -/
def isZero : F → Bool
  | .fin _ m => decide (m.val = 0)
  | _ => false

/-- The order of non-NaN data: infinities lie beyond every finite count of units, and both zeros are 0 (R18). -/
def rank : F → Int
  | .nan => 0
  | .inf s => if s then -(2 ^ 278) else 2 ^ 278
  | .fin s m => finUnits s m

/-- `a < b` (R18): false whenever an operand is NaN. -/
def lt (a b : F) : Bool := !a.isNaN && !b.isNaN && decide (a.rank < b.rank)

/-- `a ≤ b` (R18). -/
def le (a b : F) : Bool := !a.isNaN && !b.isNaN && decide (a.rank ≤ b.rank)

/-- `fmin` (R18), used on non-NaN operands. DESIGN CHOICE for equal operands (log 10): the first. -/
def min (a b : F) : F := if lt b a then b else a

/-- `fmax` (R18), used on non-NaN operands. DESIGN CHOICE for equal operands (log 10): the first. -/
def max (a b : F) : F := if lt a b then b else a

/-- `clampF(a, lo, hi)` (R18). -/
def clamp (a lo hi : F) : F := max lo (min a hi)

/-- `i2f` (R17): an integer, rounded to nearest even. -/
def ofInt (i : Int) : F := round (decide (i < 0)) (i.natAbs * 2 ^ 149) 1

/-- A finite datum rounded to an integer, halves to even (R17 `rne_int`), on its sign and magnitude. -/
def rneFin (s : Bool) (m : Mag) : Int :=
  let q : Nat := m.units / 2 ^ 149
  let r : Nat := m.units % 2 ^ 149
  let v : Nat := if 2 ^ 149 < 2 * r ∨ (2 * r = 2 ^ 149 ∧ q % 2 = 1) then q + 1 else q
  if s then -(v : Int) else v

/-- A finite datum rounded to an integer, halves away from zero (R17 `rhaz`), on its sign and magnitude. -/
def rhazFin (s : Bool) (m : Mag) : Int :=
  let v : Nat := (2 * m.units + 2 ^ 149) / 2 ^ 150
  if s then -(v : Int) else v

/-- 1.0 -/
def one : F := ofBits 0x3F800000
/-- 2.0 -/
def two : F := ofBits 0x40000000
/-- 0.5 -/
def half : F := ofBits 0x3F000000
/-- 0.25 -/
def quarter : F := ofBits 0x3E800000
/-- 1.5 -/
def oneHalf : F := ofBits 0x3FC00000
/-- 4.0 -/
def four : F := ofBits 0x40800000
/-- 6.0 -/
def six : F := ofBits 0x40C00000
/-- 12.0 -/
def twelve : F := ofBits 0x41400000
/-- 24.0 -/
def twentyFour : F := ofBits 0x41C00000
/-- 2^-23 -/
def twoPowNeg23 : F := ofBits 0x34000000
/-- `PI` (R19). -/
def pi : F := ofBits 0x40490FDB
/-- `TWO_PI` (R19). -/
def twoPi : F := ofBits 0x40C90FDB
/-- `INV_TWO_PI` (R19). -/
def invTwoPi : F := ofBits 0x3E22F983

end F

end Sys2Proof
end

