-- ==== Sys2Proof/Machine/Trig.lean ====
section
/-! DEFINITION. The real functions behind the ROM tables (00_scope.md R9 to R11) and behind NUM_REF (R16), on
fixed-point naturals that count 2^-700. Every division rounds down, so a result is below the exact one by a few hundred
counts at most; log 7 says what that leaves unproved. -/

namespace Sys2Proof.Trig

/-- 1.0 in counts of 2^-700. -/
def one : Nat := 2 ^ 700

/-- π in counts of 2^-700. -/
def pi : Nat :=
  0x3243f6a8885a308d313198a2e03707344a4093822299f31d0082efa98ec4e6c89452821e638d01377be5466cf34e90c6cc0ac29b7c97c50dd3f84d5b5b54709179216d5d98979fb1bd1310ba698dfb5ac2ffd72dbd01adfb

/-- The natural logarithm of 2 in counts of 2^-700. -/
def ln2 : Nat :=
  0xb17217f7d1cf79abc9e3b39803f2f6af40f343267298b62d8a0d175b8baafa2be7b876206debac98559552fb4afa1b10ed2eae35c138214427573b291169b8253e96ca16224ae8c51acbda11317c387eb9ea9bc3b136603

/-- A quarter turn. -/
def quarterTurn : Nat := pi / 2

/-- The nested cosine series 1 - x²/(1·2)·(1 - x²/(3·4)·(…)), from its k-th bracket outwards; `x2` is x². -/
def cosNest (x2 : Nat) : Nat → Nat → Nat
  | 0, h => h
  | k + 1, h => cosNest x2 k (one - x2 * h / (one * ((2 * k + 1) * (2 * k + 2))))

/-- The nested sine series 1 - x²/(2·3)·(1 - x²/(4·5)·(…)), to be multiplied by x. -/
def sinNest (x2 : Nat) : Nat → Nat → Nat
  | 0, h => h
  | k + 1, h => sinNest x2 k (one - x2 * h / (one * ((2 * k + 2) * (2 * k + 3))))

/-- Cosine of an angle of at most an eighth of a turn. -/
def cosSmall (x : Nat) : Nat := cosNest (x * x / one) 75 one

/-- Sine of an angle of at most an eighth of a turn. -/
def sinSmall (x : Nat) : Nat := x * sinNest (x * x / one) 75 one / one

/-- Sine of an angle of the first quadrant. -/
def sinFirst (x : Nat) : Nat := if 2 * x ≤ quarterTurn then sinSmall x else cosSmall (quarterTurn - x)

/-- Cosine of an angle of the first quadrant. -/
def cosFirst (x : Nat) : Nat := if 2 * x ≤ quarterTurn then cosSmall x else sinSmall (quarterTurn - x)

/-- Sine of `n` quarter turns and the first-quadrant angle `x`: is it negative, and its magnitude. -/
def sinTurn (n x : Nat) : Bool × Nat :=
  (decide (2 ≤ n % 4), if n % 2 = 0 then sinFirst x else cosFirst x)

/-- Cosine of `n` quarter turns and the first-quadrant angle `x`: is it negative, and its magnitude. -/
def cosTurn (n x : Nat) : Bool × Nat :=
  (decide (n % 4 = 1 ∨ n % 4 = 2), if n % 2 = 0 then cosFirst x else sinFirst x)

/-- Euler's series of the arctangent, 1 + 2w/3·(1 + 4w/5·(1 + 6w/7·(…))) with w = q²/(1 + q²). -/
def atanNest (w : Nat) : Nat → Nat → Nat
  | 0, h => h
  | k + 1, h => atanNest w k (one + (2 * k + 2) * w * h / (one * (2 * k + 3)))

/-- Arctangent of q ≤ 1/2: q/(1 + q²) times Euler's series. -/
def atanSmall (q : Nat) : Nat :=
  let q2 := q * q / one
  q * one / (one + q2) * atanNest (q2 * one / (one + q2)) 330 one / one

/-- Arctangent of q ≤ 1; above 2/5 it is an eighth of a turn less the arctangent of (1 - q)/(1 + q). -/
def atanUnit (q : Nat) : Nat :=
  if 5 * q ≤ 2 * one then atanSmall q else pi / 4 - atanSmall ((one - q) * one / (one + q))

/-- The angle of the first quadrant whose tangent is `y / x`, not both zero. -/
def atanFirst (y x : Nat) : Nat :=
  if y ≤ x then atanUnit (y * one / x) else quarterTurn - atanUnit (x * one / y)

/-- The nested exponential series 1 + x/1·(1 + x/2·(…)). -/
def expNest (x : Nat) : Nat → Nat → Nat
  | 0, h => h
  | k + 1, h => expNest x k (one + x * h / (one * (k + 1)))

/-- 2 to the power `f`, for f < 1. -/
def exp2Frac (f : Nat) : Nat := expNest (f * ln2 / one) 140 one

/-- A count of 2^-700, narrowed to `F`; a zero is +0 (R9). -/
def narrow (v : Bool × Nat) : F := F.round (v.1 && decide (v.2 ≠ 0)) v.2 (2 ^ 551)

end Sys2Proof.Trig
end

