-- ==== Sys2Proof/Machine/NumRef.lean ====
section
/-! DEFINITION. The reference numeric record NUM_REF of 00_scope.md R16: the exact real function of the operand, narrowed
once. UNVERIFIED that every result is the correctly rounded one (log 7); zeros and infinities follow IEEE 754 (log 17). -/

namespace Sys2Proof.NumRef

/-- Keep the sign and let the magnitude not exceed that of `cap`; a correctly rounded result never does (log 7). -/
def capMag (cap : Mag) : F → F
  | .nan => .nan
  | .inf s => .fin s cap
  | .fin s m => .fin s (if m.val ≤ cap.val then m else cap)

/-- The magnitude bits of 1.0. -/
def oneMag : Mag := ⟨0x3F800000, by decide⟩

/-- The magnitude bits of `PI`. -/
def piMag : Mag := ⟨0x40490FDB, by decide⟩

/-- A finite magnitude in counts of 2^-700. -/
def fixed (m : Mag) : Nat := m.units * 2 ^ 551

/-- `fcos` of NUM_REF. -/
def cos : F → F
  | .fin _ m => capMag oneMag (Trig.narrow (Trig.cosTurn (fixed m / Trig.quarterTurn) (fixed m % Trig.quarterTurn)))
  | _ => .nan

/-- `fsin` of NUM_REF; the sine of a zero is that zero. -/
def sin : F → F
  | .fin s m =>
    if m.val = 0 then .fin s m
    else
      let v := Trig.sinTurn (fixed m / Trig.quarterTurn) (fixed m % Trig.quarterTurn)
      capMag oneMag (Trig.narrow (v.1 ^^ s, v.2))
  | _ => .nan

/-- An angle of at most half a turn, with a sign, narrowed. -/
def angle (neg : Bool) (v : Nat) : F := capMag piMag (F.round neg v (2 ^ 551))

/-- The first-quadrant angle of a point given by two magnitudes, not both zero; infinities by their limits. -/
def firstAngle : F → F → Nat
  | .inf _, .inf _ => Trig.pi / 4
  | .inf _, _ => Trig.quarterTurn
  | _, .inf _ => 0
  | .fin _ y, .fin _ x => Trig.atanFirst y.units x.units
  | _, _ => 0

/-- Is the sign bit set? -/
def signBit : F → Bool
  | .nan => false
  | .inf s => s
  | .fin s _ => s

/-- `fatan2(y, x)` of NUM_REF. -/
def atan2 (y x : F) : F :=
  if y.isNaN || x.isNaN then .nan
  else if y.isZero then
    if signBit x then .fin (signBit y) piMag else .fin (signBit y) ⟨0, by decide⟩
  else if signBit x then angle (signBit y) (Trig.pi - firstAngle y x)
  else angle (signBit y) (firstAngle y x)

/-- 2 to a power at least 0 whose integer part is `n` and fraction `f`. -/
def exp2Up (n f : Nat) : F := if 128 ≤ n then .inf false else F.round false (Trig.exp2Frac f * 2 ^ n) (2 ^ 551)

/-- 2 to a power that lies `n` below the fraction `f`. -/
def exp2Down (n f : Nat) : F := if 152 ≤ n then F.zero else F.round false (Trig.exp2Frac f) (2 ^ 551 * 2 ^ n)

/-- `fexp2` of NUM_REF. -/
def exp2 : F → F
  | .nan => .nan
  | .inf s => if s then F.zero else .inf false
  | .fin s m =>
    let q := fixed m / Trig.one
    let r := fixed m % Trig.one
    if s then (if r = 0 then exp2Down q 0 else exp2Down (q + 1) (Trig.one - r)) else exp2Up q r

end Sys2Proof.NumRef
end

