-- ==== Sys2Proof/Config.lean ====
section
/-! DEFINITION. The configuration record CFG of 00_scope.md R6, the numeric record NUM of R15, and the values that the
spec leaves open (opaque constants: no statement can rest on what they are). -/

namespace Sys2Proof

/-- The four transcendental functions of 00_scope.md R15. -/
structure NumFns where
  fcos : F → F
  fsin : F → F
  fatan2 : F → F → F
  fexp2 : F → F

/-- The properties 00_scope.md R15 demands of every build's NUM, (a) to (d) in its order. -/
structure NumFns.Meets (n : NumFns) : Prop where
  nan_operand : n.fcos .nan = .nan ∧ n.fsin .nan = .nan ∧ n.fexp2 .nan = .nan
    ∧ ∀ a, n.fatan2 .nan a = .nan ∧ n.fatan2 a .nan = .nan
  inf_operand : ∀ s, n.fcos (.inf s) = .nan ∧ n.fsin (.inf s) = .nan
  cos_range : ∀ a : F, a.isFinite → (n.fcos a).isFinite ∧ (F.neg .one).le (n.fcos a) ∧ (n.fcos a).le .one
  sin_range : ∀ a : F, a.isFinite → (n.fsin a).isFinite ∧ (F.neg .one).le (n.fsin a) ∧ (n.fsin a).le .one
  cos_zero : ∀ a : F, a.isZero → n.fcos a = .one
  sin_zero : n.fsin .zero = .zero
  atan2_range : ∀ y x : F, y ≠ .nan → x ≠ .nan →
    (n.fatan2 y x).isFinite ∧ (F.neg .pi).le (n.fatan2 y x) ∧ (n.fatan2 y x).le .pi
  atan2_right : ∀ x : F, F.zero.lt x ∨ x = .zero → n.fatan2 .zero x = .zero
  atan2_left : ∀ x : F, x.lt .zero → n.fatan2 .zero x = .pi
  exp2_ends : (∀ a : F, a.isZero → n.fexp2 a = .one) ∧ n.fexp2 .one = .two ∧ n.fexp2 (.neg .one) = .half
  exp2_range : ∀ a : F, (F.neg .one).le a → a.le .one → (n.fexp2 a).isFinite ∧ F.zero.lt (n.fexp2 a)
  exp2_mono : ∀ a b : F, (F.neg .one).le a → a.le b → b.le .one → (n.fexp2 a).le (n.fexp2 b)

/-- A numeric record a build may have: four functions that meet R15. -/
structure Num where
  fns : NumFns
  meets : fns.Meets

/-- NUM_REF (00_scope.md R16). -/
def NumFns.ref : NumFns where
  fcos := NumRef.cos
  fsin := NumRef.sin
  fatan2 := NumRef.atan2
  fexp2 := NumRef.exp2

/-- The numeric record of build number `k`: any record that meets R15 (93_implementation_defined.md U7), or none, and
then the build has NUM_REF. Nothing is known of it but R15. -/
opaque Config.buildNum : Nat → Option Num

/-- What byte `a` (counted as 20_memory.md R82 counts bytes) of BUF holds when nobody has written it
(93_implementation_defined.md U2): the `n`-th draw of a free value. -/
opaque Config.unwrittenByte (n a : Nat) : Byte

/-- The word a NaN would be read out as (93_implementation_defined.md U3): a free value, made a NaN pattern in
`F.toBits`. -/
opaque Config.nanWord : Word

/-- What rounding a non-finite datum to an integer gives (00_scope.md R17 defines it for finite ones): a free value. -/
opaque Config.roundNonFinite : F → Int

/-- Which numeric record a build has: NUM_REF, or build number `k`. -/
inductive NumChoice where
  | ref
  | build (k : Nat)
  deriving DecidableEq, Repr

/-- A window ROM (00_scope.md R6, R11): the periodic Hann window, or any table a build loads. -/
inductive Window where
  | hann
  | table (entries : List F)
  deriving DecidableEq, Repr

/-- The configuration record CFG of 00_scope.md R6. No command changes it. -/
structure Cfg where
  /-- `N`, the transform size. -/
  n : Nat
  /-- `HA`, the analysis hop. -/
  ha : Nat
  /-- `MAXSTRETCH`. -/
  maxStretch : Nat
  /-- `L`, the length of the overlap-add ring. -/
  l : Nat
  /-- `MAXBLK_HW`, the words of the sample buffer. -/
  maxBlkHw : Nat
  /-- `WA`, the analysis window. -/
  wa : Window
  /-- `WS`, the synthesis window. -/
  ws : Window
  /-- `KOLA`, the overlap-add reconstruction constant. -/
  kola : F
  /-- `EPS_ENV`, the envelope value above which the reader divides. -/
  epsEnv : F
  /-- `SNAPW`, the half-width of the identity snap band. -/
  snapW : F
  /-- `SEED`, the reset value of the smear generator. -/
  seed : Word
  /-- `NUM`, the numeric record. -/
  num : NumChoice
  deriving DecidableEq, Repr

/-- The defaults of 00_scope.md R6. -/
def Cfg.default : Cfg where
  n := 2048
  ha := 512
  maxStretch := 4
  l := 8192
  maxBlkHw := 4096
  wa := .hann
  ws := .hann
  kola := F.ofBits 0x3FAAAAAB
  epsEnv := F.ofBits 0x35800000
  snapW := F.ofBits 0x3C800000
  seed := 0x9E3779B9
  num := .ref

end Sys2Proof
end

