-- ==== Sys2Proof/Syntax.lean ====
section
/-! DEFINITION. The commands: one constructor per row of spec/opcode_table.json (30_encoding.md R114). Operands are
unsigned integers taken from the bits as they stand (R112). -/

namespace Sys2Proof

/-- The 21 commands of the opcode map (30_encoding.md R114). -/
inductive Instr where
  /-- `NOP`, 47_facade.md R223. -/
  | nop
  /-- `PREPARE variant, maxblk`, 47_facade.md R224. -/
  | prepare (variant maxblk : Nat)
  /-- `RESET`, 47_facade.md R225. -/
  | reset
  /-- `PROCESS n`, 47_facade.md R222. -/
  | process (n : Nat)
  /-- `FRAME`, 47_facade.md R226. -/
  | frame
  /-- `PUSH i`, 41_frame_buffer.md R140. -/
  | push (i : Nat)
  /-- `EXTRACT`, 41_frame_buffer.md R141. -/
  | extract
  /-- `LOADX`, 42_fft.md R150. -/
  | loadx
  /-- `BITREV`, 42_fft.md R151. -/
  | bitrev
  /-- `BFLY inv, stage, q`, 42_fft.md R152. -/
  | bfly (inv : Bool) (stage q : Nat)
  /-- `ZIM`, 42_fft.md R153. -/
  | zim
  /-- `SCALEY`, 42_fft.md R155. -/
  | scaley
  /-- `FFTF`, 42_fft.md R154. -/
  | fftf
  /-- `FFTI`, 42_fft.md R156. -/
  | ffti
  /-- `POLAR`, 43_phase_tracker.md R170. -/
  | polar
  /-- `TRACK`, 43_phase_tracker.md R171. -/
  | track
  /-- `MODIFY`, 44_modifier.md R180. -/
  | modify
  /-- `ACCUM`, 45_rotator.md R200. -/
  | accum
  /-- `HERM`, 45_rotator.md R203. -/
  | herm
  /-- `OLAW`, 46_overlap_add.md R210. -/
  | olaw
  /-- `POP i`, 46_overlap_add.md R213. -/
  | pop (i : Nat)
  deriving DecidableEq, Repr

end Sys2Proof
end

