-- ==== Sys2Proof/WellFormed.lean ====
section
/-! DEFINITION. Which instructions have an encoding (30_encoding.md R111), and which configurations are builds of the
engine (00_scope.md R6). -/

namespace Sys2Proof

/-- Every operand fits its field: `variant` 3 bits, `maxblk` and `imm21` 21 bits, `stage` 4 bits, `q` 16 bits
(30_encoding.md R111). -/
def Instr.wellFormed : Instr → Bool
  | .prepare variant maxblk => decide (variant < 2 ^ 3) && decide (maxblk < 2 ^ 21)
  | .process n => decide (n < 2 ^ 21)
  | .push i => decide (i < 2 ^ 21)
  | .bfly _ stage q => decide (stage < 2 ^ 4) && decide (q < 2 ^ 16)
  | .pop i => decide (i < 2 ^ 21)
  | .nop | .reset | .frame | .extract | .loadx | .bitrev | .zim | .scaley | .fftf | .ffti | .polar | .track
  | .modify | .accum | .herm | .olaw => true

/-- An analysis window table: N finite entries (00_scope.md R6). -/
def Window.analysisOk (n : Nat) : Window → Bool
  | .hann => true
  | .table es => decide (es.length = n) && es.all F.isFinite

/-- A synthesis window table: N finite entries, none negative (00_scope.md R6). -/
def Window.synthesisOk (n : Nat) : Window → Bool
  | .hann => true
  | .table es => decide (es.length = n) && es.all F.isFinite && es.all (F.le F.zero)

/-- The constraint column of 00_scope.md R6, row by row. -/
def Cfg.wf (c : Cfg) : Bool :=
  [ decide (c.n = 2 ^ c.n.log2), decide (4 ≤ c.n), decide (c.n ≤ 32768),
    decide (1 ≤ c.ha), decide (c.ha ≤ c.n),
    decide (1 ≤ c.maxStretch), decide (c.ha * c.maxStretch ≤ 2 ^ 17),
    decide (2 * c.n ≤ c.l), decide (c.n + c.ha * c.maxStretch ≤ c.l),
    decide (1 ≤ c.maxBlkHw), decide (c.maxBlkHw ≤ 2 ^ 21 - 1),
    c.wa.analysisOk c.n, c.ws.synthesisOk c.n,
    c.kola.isFinite, F.zero.lt c.kola,
    c.epsEnv.isFinite, F.zero.le c.epsEnv,
    c.snapW.isFinite, F.zero.le c.snapW, c.snapW.lt F.half,
    decide (c.seed ≠ 0) ].all id

end Sys2Proof
end

