-- ==== Sys2Proof/Decode.lean ====
section
/-! DEFINITION. The decoder and the encoder of 30_encoding.md (R110 to R115), both written from its tables. -/

namespace Sys2Proof

/-- Why a word is no command (30_encoding.md R113 tests 1 and 2, R115): both end the command with `ILLEGAL`. -/
inductive Illegal where
  /-- The opcode byte is not in the map of R114. -/
  | reservedOpcode
  /-- A field marked zero is not zero. -/
  | nonZeroField
  deriving DecidableEq, Repr

/-- The field `w[hi:lo]` as an unsigned integer (00_scope.md R22). -/
def field (w : Word) (hi lo : Nat) : Nat := w.toNat / 2 ^ lo % 2 ^ (hi + 1 - lo)

/-- Format `Z`: bits 23:0 must be zero (R111). -/
def formatZ (w : Word) (i : Instr) : Except Illegal Instr :=
  if field w 23 0 = 0 then .ok i else .error .nonZeroField

/-- Format `I`: bits 23:21 must be zero, bits 20:0 are `imm21` (R111). -/
def formatI (w : Word) (mk : Nat → Instr) : Except Illegal Instr :=
  if field w 23 21 = 0 then .ok (mk (field w 20 0)) else .error .nonZeroField

/-- Format `P`: bits 23:21 are `variant`, bits 20:0 `maxblk`; it has no zero field (R111). -/
def formatP (w : Word) : Except Illegal Instr := .ok (.prepare (field w 23 21) (field w 20 0))

/-- Format `B`: bit 23 is `inv`, bits 22:20 must be zero, bits 19:16 are `stage`, bits 15:0 `q` (R111). -/
def formatB (w : Word) : Except Illegal Instr :=
  if field w 22 20 = 0 then .ok (.bfly (decide (field w 23 23 = 1)) (field w 19 16) (field w 15 0))
  else .error .nonZeroField

/-- The decoder (R113 tests 1 and 2): the opcode map of R114, then the zero fields of the opcode's format. -/
def decode (w : Word) : Except Illegal Instr :=
  match field w 31 24 with
  | 0x00 => formatZ w .nop
  | 0x01 => formatP w
  | 0x02 => formatZ w .reset
  | 0x03 => formatI w .process
  | 0x04 => formatZ w .frame
  | 0x10 => formatI w .push
  | 0x11 => formatZ w .extract
  | 0x20 => formatZ w .loadx
  | 0x21 => formatZ w .bitrev
  | 0x22 => formatB w
  | 0x23 => formatZ w .zim
  | 0x24 => formatZ w .scaley
  | 0x25 => formatZ w .fftf
  | 0x26 => formatZ w .ffti
  | 0x30 => formatZ w .polar
  | 0x31 => formatZ w .track
  | 0x40 => formatZ w .modify
  | 0x50 => formatZ w .accum
  | 0x51 => formatZ w .herm
  | 0x60 => formatZ w .olaw
  | 0x61 => formatI w .pop
  | _ => .error .reservedOpcode

/-- The opcode byte of each command (R114). -/
def opcode : Instr → Nat
  | .nop => 0x00
  | .prepare _ _ => 0x01
  | .reset => 0x02
  | .process _ => 0x03
  | .frame => 0x04
  | .push _ => 0x10
  | .extract => 0x11
  | .loadx => 0x20
  | .bitrev => 0x21
  | .bfly _ _ _ => 0x22
  | .zim => 0x23
  | .scaley => 0x24
  | .fftf => 0x25
  | .ffti => 0x26
  | .polar => 0x30
  | .track => 0x31
  | .modify => 0x40
  | .accum => 0x50
  | .herm => 0x51
  | .olaw => 0x60
  | .pop _ => 0x61

/-- The operand bits 23:0 of each command (R111, R117). -/
def operandBits : Instr → Nat
  | .prepare variant maxblk => variant * 2 ^ 21 + maxblk
  | .process n => n
  | .push i => i
  | .pop i => i
  | .bfly inv stage q => (if inv then 2 ^ 23 else 0) + stage * 2 ^ 16 + q
  | .nop | .reset | .frame | .extract | .loadx | .bitrev | .zim | .scaley | .fftf | .ffti | .polar | .track
  | .modify | .accum | .herm | .olaw => 0

/-- The word of a command: `op << 24 | operand bits` (R117). -/
def encode (i : Instr) : Word := BitVec.ofNat 32 (opcode i * 2 ^ 24 + operandBits i)

/-- The command read from an instruction of `nbits` bits `w`, the bits above them zero; none where the word is illegal. -/
def decodeTableWord (nbits w : Nat) : Option Instr :=
  match decode (BitVec.ofNat 32 (w % 2 ^ nbits)) with
  | .ok i => some i
  | .error _ => none

end Sys2Proof
end

