-- ==== Sys2Proof/Machine/State.lean ====
section
/-! DEFINITION. The state of the engine (10_state.md), its reset value (R61, 70_reset_and_hazards.md R280), and the
reasons a step can stop. -/

namespace Sys2Proof.Machine

/-- Nothing the spec describes stops the engine ("No crash is acceptable", 60_exceptions.md R259), so a step has no
fault: the type is empty, and nothing raises one. -/
inductive Fault where
  deriving DecidableEq, Repr

/-- Why a step has no meaning. -/
inductive Refusal where
  /-- Raised by an arm of `exec` whose instruction has no meaning yet (none at present). Safe. -/
  | notModelled (mnemonic : String)
  /-- Raised by `step` when CFG breaks a constraint of 00_scope.md R6: no build of the engine, which
  93_implementation_defined.md U9 says to refuse. Safe. -/
  | buildOutsideSpec
  deriving DecidableEq, Repr

/-- `LSTATE` (10_state.md R31); its code 3 never occurs. -/
inductive LState where
  | cold
  | warming
  | steady
  deriving DecidableEq, Repr

/-- `VARIANT` (10_state.md R32); its codes 5 to 7 never occur. -/
inductive Variant where
  | stretch
  | pitchShift
  | freeze
  | gate
  | smear
  deriving DecidableEq, Repr

/-- `RESULT` (10_state.md R35, 60_exceptions.md R258); codes 5 to 255 never occur. -/
inductive ResultCode where
  | ok
  | illegal
  | notPrepared
  | badArg
  | prepFail
  deriving DecidableEq, Repr

/-- The three guard classes (60_exceptions.md R250). -/
inductive Guard where
  | numericalInstability
  | bufferBoundsViolation
  | parameterOutOfRange
  deriving DecidableEq, Repr

/-- The indices 0 to 6 of `PARAM` by name (10_state.md R42). -/
inductive ParamIndex where
  | stretch
  | pitch
  | freeze
  | gthr
  | glo
  | ghi
  | smear
  deriving DecidableEq, Repr

/-- `PARAM[0..6]` (10_state.md R42). -/
structure ParamRegs where
  stretch : F
  pitch : F
  freeze : F
  gthr : F
  glo : F
  ghi : F
  smear : F
  deriving DecidableEq, Repr

/-- A mapped parameter set: the type of `PUB` and of `ACT` (10_state.md R43). -/
structure Mapped where
  stretch : F
  pitch : F
  freeze : Bool
  gthr : F
  glo : Nat
  ghi : Nat
  smear : F
  deriving DecidableEq, Repr

/-- A working memory of `F` values (10_state.md section 5), as the list of its elements that are not +0: indices
strictly rising, no +0 listed. An unlisted element is +0, so a cleared memory is the empty list. -/
abbrev Arr := List (Nat × F)

/-- The bytes of the sample buffer that somebody has written, each under its address on a byte bus (20_memory.md R82):
addresses strictly rising. An unlisted byte has no value (10_state.md R58). -/
abbrev Memory := List Host.Cell

/-- One access of the stream in which all host accesses take effect (20_memory.md R86). -/
inductive HostAccess where
  /-- `MemRead(addr, 1)` (R81). -/
  | read (addr : BitVec 22)
  /-- `MemWrite(addr, 1, v)` (R81). -/
  | write (addr : BitVec 22) (v : Word)
  /-- A read of `size` bytes through a byte-bus bridge (R82, R83). -/
  | busRead (byteAddr : BitVec 24) (size : Nat)
  /-- A write of `size` bytes through a byte-bus bridge (R82, R83). -/
  | busWrite (byteAddr : BitVec 24) (size : Nat) (v : Word)
  /-- Hardware reset, asserted by the platform (70_reset_and_hazards.md R280). -/
  | hardwareReset
  deriving DecidableEq, Repr

/-- The state of one engine instance. Field by field: the spec's register or memory of the same name in capitals; the
last four fields are the model's own (INVENTORY.md, State). -/
structure State where
  /-- `LSTATE` (R31). -/
  lstate : LState
  /-- `VARIANT` (R32). -/
  variant : Variant
  /-- `MAXBLK` (R33). -/
  maxblk : BitVec 21
  /-- `ARG0` (R34). -/
  arg0 : Word
  /-- `SRATE` (R34). -/
  srate : Word
  /-- `RESULT` (R35). -/
  result : ResultCode
  /-- `CMDERR` (R36). -/
  cmderr : Bool
  /-- `CSEQ`, the program counter (R37). -/
  cseq : Word
  /-- `DIAG_NI` (R39). -/
  diagNi : Word
  /-- `DIAG_BBV` (R39). -/
  diagBbv : Word
  /-- `DIAG_POR` (R39). -/
  diagPor : Word
  /-- `PRODUCED` (R40). -/
  produced : Word
  /-- `WARMZ` (R40). -/
  warmz : Word
  /-- `FRAMECNT` (R40). -/
  framecnt : Word
  /-- `PARAM` (R42). -/
  param : ParamRegs
  /-- `PUB`, the published set (R43). -/
  pub : Mapped
  /-- `ACT`, the active set (R43). -/
  act : Mapped
  /-- `RWP` (R46). -/
  rwp : Nat
  /-- `HOPCNT` (R46). -/
  hopcnt : Nat
  /-- `HS` (R47). -/
  hs : Nat
  /-- `WPOS` (R48). -/
  wpos : Nat
  /-- `RPOS` (R48). -/
  rpos : Nat
  /-- `AVAIL` (R48). -/
  avail : Nat
  /-- `PREROLL` (R48). -/
  preroll : Nat
  /-- `PRNG` (R49). -/
  prng : Word
  /-- `RING` (R50). -/
  ring : Arr
  /-- `FRAME` (R51). -/
  frame : Arr
  /-- `XR` (R52). -/
  xr : Arr
  /-- `XI` (R52). -/
  xi : Arr
  /-- `MAG` (R53). -/
  mag : Arr
  /-- `PH` (R53). -/
  ph : Arr
  /-- `TIF` (R53). -/
  tif : Arr
  /-- `LASTPH` (R54). -/
  lastph : Arr
  /-- `SYNPH` (R54). -/
  synph : Arr
  /-- `CURMAG` (R55). -/
  curmag : Arr
  /-- `CURIF` (R55). -/
  curif : Arr
  /-- `SMAG` (R56). -/
  smag : Arr
  /-- `SIF` (R56). -/
  sif : Arr
  /-- `PHI` (R56). -/
  phi : Arr
  /-- `Y` (R57). -/
  y : Arr
  /-- `OLA` (R57). -/
  ola : Arr
  /-- `ENV` (R57). -/
  env : Arr
  /-- `BUF` (R58). -/
  buf : Memory
  /-- CFG (00_scope.md R6), the model's configuration argument: constant, no step changes it. -/
  cfg : Cfg
  /-- The host accesses still to take effect, the next one first (20_memory.md R86). -/
  pending : List HostAccess
  /-- The word the last host read returned (20_memory.md R81). -/
  rdata : Word
  /-- How many free values have been drawn for unwritten elements of BUF (93_implementation_defined.md U2). -/
  draws : Nat
  deriving DecidableEq, Repr

/-- `PARAM` after hardware reset (10_state.md R42). -/
def ParamRegs.reset : ParamRegs where
  stretch := F.half
  pitch := F.half
  freeze := F.zero
  gthr := F.zero
  glo := F.zero
  ghi := F.one
  smear := F.zero

/-- `PUB` and `ACT` after hardware reset of a build of `n` samples (10_state.md R43, last column; H = N/2). -/
def Mapped.reset (n : Nat) : Mapped where
  stretch := F.one
  pitch := F.one
  freeze := false
  gthr := F.zero
  glo := 0
  ghi := n / 2
  smear := F.zero

/-- The engine of build `c` right after hardware reset (10_state.md R61, first column). DESIGN CHOICE (log 3): the
working memories, which the spec leaves unspecified, are +0. -/
def State.hardwareReset (c : Cfg) : State where
  lstate := .cold
  variant := .stretch
  maxblk := 0
  arg0 := 0
  srate := 0
  result := .ok
  cmderr := false
  cseq := 0
  diagNi := 0
  diagBbv := 0
  diagPor := 0
  produced := 0
  warmz := 0
  framecnt := 0
  param := ParamRegs.reset
  pub := Mapped.reset c.n
  act := Mapped.reset c.n
  rwp := 0
  hopcnt := 0
  hs := c.ha
  wpos := 0
  rpos := 0
  avail := 0
  preroll := c.n
  prng := c.seed
  ring := []
  frame := []
  xr := []
  xi := []
  mag := []
  ph := []
  tif := []
  lastph := []
  synph := []
  curmag := []
  curif := []
  smag := []
  sif := []
  phi := []
  y := []
  ola := []
  env := []
  buf := []
  cfg := c
  pending := []
  rdata := 0
  draws := 0

/-- The machine right after reset: the default build (00_scope.md R6), nothing written, no access pending. -/
def State.reset : State := State.hardwareReset Cfg.default

end Sys2Proof.Machine
end

