-- ==== Sys2Proof/Machine/Numeric.lean ====
section
/-! DEFINITION. The conversions of 00_scope.md R17 that meet an open value, `wrap` (R20), and the numeric record of a
build (R15). -/

namespace Sys2Proof

/-- `bitsof` (R17): the word of a datum. R17 defines it for data other than NaN; for NaN the word is some NaN pattern,
which one being a free value (93_implementation_defined.md U3, log 5). -/
def F.toBits : F → Word
  | .nan =>
    if 0x7F800000 < Config.nanWord.toNat % 2 ^ 31 then Config.nanWord else Config.nanWord ||| 0x7FC00000
  | .inf s => BitVec.ofNat 32 ((if s then 2 ^ 31 else 0) + 0x7F800000)
  | .fin s m => BitVec.ofNat 32 ((if s then 2 ^ 31 else 0) + m.val)

/-- `rne_int` (R17); of a non-finite datum, which R17 leaves out, a free value (log 6). -/
def F.rneInt : F → Int
  | .fin s m => F.rneFin s m
  | a => Config.roundNonFinite a

/-- `rhaz` (R17); of a non-finite datum, which R17 leaves out, a free value (log 6). -/
def F.rhaz : F → Int
  | .fin s m => F.rhazFin s m
  | a => Config.roundNonFinite a

/-- `wrap` (R20). -/
def F.wrap (x : F) : F :=
  if x.isFinite then
    let q := F.ofInt (F.rneInt (F.mul x F.invTwoPi))
    let y := F.sub x (F.mul q F.twoPi)
    let y := if F.lt F.pi y then F.sub y F.twoPi else y
    if F.le y (F.neg F.pi) then F.add y F.twoPi else y
  else .nan

/-- The numeric record of a build (R6, R15): NUM_REF, or the build's own if it has one. -/
def NumChoice.fns : NumChoice → NumFns
  | .ref => NumFns.ref
  | .build k =>
    match Config.buildNum k with
    | some num => num.fns
    | none => NumFns.ref

end Sys2Proof
end

