-- ==== Sys2Proof/Machine/Tables.lean ====
section
/-! DEFINITION. The derived constants of 00_scope.md R8 and the ROM tables of R9 to R11: functions of CFG, not state
(10_state.md R59). -/

namespace Sys2Proof

/-- `H` = N/2, the highest bin (R8). -/
def Cfg.h (c : Cfg) : Nat := c.n / 2

/-- `LOG2N` (R8). -/
def Cfg.log2n (c : Cfg) : Nat := c.n.log2

/-- `LAT` = N + (N - HA), the reported latency (R8). -/
def Cfg.lat (c : Cfg) : Nat := c.n + (c.n - c.ha)

/-- `HSMAX` = HA * MAXSTRETCH, the largest synthesis hop (R8). -/
def Cfg.hsMax (c : Cfg) : Nat := c.ha * c.maxStretch

/-- `INVN` = 1/N (R8). -/
def Cfg.invN (c : Cfg) : F := F.round false (2 ^ 149) c.n

/-- The angle 2πt/N as whole quarter turns and a rest below one quarter turn. -/
def turnOf (n t : Nat) : Nat × Nat := (4 * t / n, 4 * t % n * Trig.quarterTurn / n)

/-- `TWC[t]` = RN(cos(2πt/N)) (R9). -/
def Cfg.twc (c : Cfg) (t : Nat) : F := Trig.narrow (Trig.cosTurn (turnOf c.n t).1 (turnOf c.n t).2)

/-- `TWS[t]` = RN(sin(2πt/N)) (R9). -/
def Cfg.tws (c : Cfg) (t : Nat) : F := Trig.narrow (Trig.sinTurn (turnOf c.n t).1 (turnOf c.n t).2)

/-- RN(2πk/N). -/
def turnFraction (n k : Nat) : F := F.round false (2 * Trig.pi * k) (n * 2 ^ 551)

/-- `OMEGA[k]` = RN(2πk/N) (R10). -/
def Cfg.omega (c : Cfg) (k : Nat) : F := turnFraction c.n k

/-- `EXPADV[k]` = RN(2π((k·HA) mod N)/N) (R10). -/
def Cfg.expAdv (c : Cfg) (k : Nat) : F := turnFraction c.n (k * c.ha % c.n)

/-- The periodic Hann window RN(0.5 - 0.5·cos(2πj/N)) (R11). -/
def hann (n j : Nat) : F :=
  let v := Trig.cosTurn (turnOf n j).1 (turnOf n j).2
  NumRef.capMag NumRef.oneMag
    (F.round false (if v.1 then Trig.one + v.2 else Trig.one - v.2) (2 * 2 ^ 551))

/-- Entry `j` of a window ROM of a build of `n` samples (R6, R11). -/
def Window.entry (n j : Nat) : Window → F
  | .hann => Sys2Proof.hann n j
  | .table es => es.getD j F.zero

/-- `WA[j]` (R6). -/
def Cfg.waAt (c : Cfg) (j : Nat) : F := c.wa.entry c.n j

/-- `WS[j]` (R6). -/
def Cfg.wsAt (c : Cfg) (j : Nat) : F := c.ws.entry c.n j

end Sys2Proof
end

