-- ==== Sys2Proof/Machine/Ops.lean ====
section
/-! DEFINITION. The operations every command is made of: loops, memories, the sample buffer, guard entry
(60_exceptions.md R253), the end of a command (47_facade.md R220) and clearing (R227). -/

namespace Sys2Proof

/-! ### Integers and loops (00_scope.md R21, R22) -/

/-- `for k = 0..n-1`, ascending; none when n is 0 (00_scope.md R22). -/
def forRange {σ : Type} : Nat → (Nat → σ → σ) → σ → σ
  | 0, _, s => s
  | k + 1, f, s => f k (forRange k f s)

/-- `for k = a..b`, both ends included; none when a > b (00_scope.md R22). -/
def forSpan {σ : Type} (a b : Nat) (f : Nat → σ → σ) (s : σ) : σ := forRange (b + 1 - a) (fun j => f (a + j)) s

/-- Reverse the low `bits` bits of `n`: bit b moves to bit bits-1-b (00_scope.md R21). -/
def bitrev : Nat → Nat → Nat
  | 0, _ => 0
  | bits + 1, n => n % 2 * 2 ^ bits + bitrev bits (n / 2)

/-- `sat32(c + k)` (00_scope.md R21). -/
def satAdd (c : Word) (k : Nat) : Word := BitVec.ofNat 32 (Nat.min (c.toNat + k) (2 ^ 32 - 1))

namespace Machine

/-! ### Lists kept in the order of their keys -/

/-- The value listed under a key. -/
def keyGet {α : Type} (k : Nat) : List (Nat × α) → Option α
  | [] => none
  | e :: es => if k = e.1 then some e.2 else keyGet k es

/-- List a value under a key, in its place, over what was there. -/
def keyPut {α : Type} (k : Nat) (v : α) : List (Nat × α) → List (Nat × α)
  | [] => [(k, v)]
  | e :: es =>
    if k < e.1 then (k, v) :: e :: es
    else if k = e.1 then (k, v) :: es
    else e :: keyPut k v es

/-- Unlist a key. -/
def keyDrop {α : Type} (k : Nat) (es : List (Nat × α)) : List (Nat × α) := es.filter (fun e => decide (e.1 ≠ k))

/-- Keys strictly rising. -/
abbrev Rising {α : Type} (es : List (Nat × α)) : Prop := es.Pairwise (fun a b => a.1 < b.1)

/-! ### Working memories (10_state.md section 5) -/

/-- `M[i]` (00_scope.md R22): an unlisted element is +0. -/
def Arr.get (a : Arr) (i : Nat) : F := (keyGet i a).getD F.zero

/-- `M[i] <- v` (00_scope.md R22): +0 is not listed. -/
def Arr.set (a : Arr) (i : Nat) (v : F) : Arr := if v = F.zero then keyDrop i a else keyPut i v a

/-- `for j = 0..n-1: M[j] <- f j`. -/
def Arr.fill (a : Arr) (n : Nat) (f : Nat → F) : Arr := forRange n (fun j a => Arr.set a j (f j)) a

/-- Exchange two elements. -/
def Arr.swap (a : Arr) (i j : Nat) : Arr := Arr.set (Arr.set a i (Arr.get a j)) j (Arr.get a i)

/-- The canonical form of a working memory of `n` elements: indices strictly rising and below `n`, no +0 listed. -/
abbrev Arr.wf (n : Nat) (a : Arr) : Prop := Rising a ∧ ∀ e ∈ a, e.1 < n ∧ e.2 ≠ F.zero

/-! ### The sample buffer (10_state.md R58) -/

/-- The byte listed at an address of the byte bus; none where nobody has written. -/
def Memory.readByte (m : Memory) (a : Nat) : Option Byte := keyGet a m

/-- Write one byte. -/
def Memory.writeByte (m : Memory) (a : Nat) (b : Byte) : Memory := keyPut a b m

/-- The canonical form of the sample buffer's memory: addresses strictly rising. An unlisted byte has no value, so no
entry can equal it. -/
abbrev Memory.wf (m : Memory) : Prop := Rising m

/-- The word address of `BUF[0]` (10_state.md R62). -/
def bufBase : Nat := 0x1000

/-- The byte address of byte `b` of `BUF[i]`: 4 times the word address, bits 7:0 lowest (20_memory.md R82). -/
def bufByteAddr (i b : Nat) : Nat := 4 * (bufBase + i) + b

/-- Byte `b` of a word, byte 0 being bits 7:0 (20_memory.md R82). -/
def byteOf (w : Word) (b : Nat) : Byte := BitVec.ofNat 8 (w.toNat / 2 ^ (8 * b))

/-- The word of four bytes, the lowest first (20_memory.md R82). -/
def wordOf (b0 b1 b2 b3 : Byte) : Word :=
  BitVec.ofNat 32 (b0.toNat + b1.toNat * 2 ^ 8 + b2.toNat * 2 ^ 16 + b3.toNat * 2 ^ 24)

/-- Write a word at four bytes of a memory. -/
def Memory.writeWord (m : Memory) (i : Nat) (w : Word) : Memory :=
  Memory.writeByte
    (Memory.writeByte
      (Memory.writeByte
        (Memory.writeByte m (bufByteAddr i 0) (byteOf w 0))
        (bufByteAddr i 1) (byteOf w 1))
      (bufByteAddr i 2) (byteOf w 2))
    (bufByteAddr i 3) (byteOf w 3)

/-- A byte of BUF: what was written there, or a free value (93_implementation_defined.md U2, log 4). -/
def State.bufByte (s : State) (a : Nat) : Byte :=
  (Memory.readByte s.buf a).getD (Config.unwrittenByte s.draws a)

/-- `BUF[i]` as a word. -/
def State.bufWord (s : State) (i : Nat) : Word :=
  wordOf (s.bufByte (bufByteAddr i 0)) (s.bufByte (bufByteAddr i 1))
    (s.bufByte (bufByteAddr i 2)) (s.bufByte (bufByteAddr i 3))

/-- Has `BUF[i]` been written since hardware reset? -/
def State.bufWritten (s : State) (i : Nat) : Bool :=
  (Memory.readByte s.buf (bufByteAddr i 0)).isSome && (Memory.readByte s.buf (bufByteAddr i 1)).isSome
    && (Memory.readByte s.buf (bufByteAddr i 2)).isSome && (Memory.readByte s.buf (bufByteAddr i 3)).isSome

/-- `BUF[i] <- w`. -/
def State.setBuf (s : State) (i : Nat) (w : Word) : State := { s with buf := Memory.writeWord s.buf i w }

/-- Count the draw of a free value for `BUF[i]`, if nobody has written it (log 4). -/
def State.countDraw (s : State) (i : Nat) : State :=
  { s with draws := if s.bufWritten i then s.draws else s.draws + 1 }

/-! ### Guard entry (60_exceptions.md R253) -/

/-- `raise Guard(c)` (60_exceptions.md R253): the class's counter counts one event, saturating, and execution goes on
with the next statement. Nothing is saved, no handler runs, and there is no return (R261). -/
def raiseGuard (g : Guard) (s : State) : State :=
  match g with
  | .numericalInstability => { s with diagNi := satAdd s.diagNi 1 }
  | .bufferBoundsViolation => { s with diagBbv := satAdd s.diagBbv 1 }
  | .parameterOutOfRange => { s with diagPor := satAdd s.diagPor 1 }

/-! ### Running a command (47_facade.md R220) -/

/-- The end of every command (47_facade.md R220): `RESULT`, the sticky `CMDERR`, and `CSEQ`. -/
def finish (r : ResultCode) (s : State) : State :=
  { s with result := r, cmderr := s.cmderr || decide (r ≠ .ok), cseq := s.cseq + 1 }

/-- A command that needs a prepared engine (30_encoding.md R113): `NOTPREPARED` in `Cold`, then `BADARG` where its
operand check fails, else its body runs and it ends `OK`. -/
def pipelineCommand (operandOk : Bool) (body : State → State) (s : State) : Host.Outcome State Fault Refusal :=
  if s.lstate = .cold then .next (finish .notPrepared s)
  else if operandOk then .next (finish .ok (body s))
  else .next (finish .badArg s)

/-- `clear_working_state()` (47_facade.md R227). It does not touch `BUF`. -/
def clearWorkingState (s : State) : State :=
  { s with
    ring := [], frame := [], xr := [], xi := [], mag := [], ph := [], tif := [], lastph := [], synph := []
    curmag := [], curif := [], smag := [], sif := [], phi := [], y := [], ola := [], env := []
    rwp := 0, hopcnt := 0
    hs := s.cfg.ha
    wpos := 0, rpos := 0, avail := 0, preroll := s.cfg.n
    prng := s.cfg.seed
    produced := 0, warmz := 0, framecnt := 0 }

end Machine

end Sys2Proof
end

