-- ==== Sys2Proof/Machine/Operands.lean ====
section
/-! DEFINITION. The operand checks of 30_encoding.md R114 and the codes operands carry (10_state.md R32). -/

namespace Sys2Proof.Machine

/-- The variant a code names (10_state.md R32); codes 5 to 7 name none. -/
def Variant.ofCode : Nat → Option Variant
  | 0 => some .stretch
  | 1 => some .pitchShift
  | 2 => some .freeze
  | 3 => some .gate
  | 4 => some .smear
  | _ => none

/-- `PUSH`, `POP`: `imm21` < `MAXBLK` (30_encoding.md R114). -/
def blockIndexOk (s : State) (i : Nat) : Bool := decide (i < s.maxblk.toNat)

/-- `PROCESS`: `imm21` ≤ `MAXBLK` (30_encoding.md R114). -/
def blockLengthOk (s : State) (n : Nat) : Bool := decide (n ≤ s.maxblk.toNat)

/-- `BFLY`: 1 ≤ `stage` ≤ LOG2N and `q` < H (30_encoding.md R114). -/
def butterflyOk (s : State) (stage q : Nat) : Bool :=
  decide (1 ≤ stage) && decide (stage ≤ s.cfg.log2n) && decide (q < s.cfg.h)

/-- The variant a `PREPARE` may construct: `variant` ≤ 4, 1 ≤ `maxblk` ≤ MAXBLK_HW, `ARG0` ≠ 0; none where it must fail
(30_encoding.md R114, 47_facade.md R224). -/
def preparable (s : State) (variant maxblk : Nat) : Option Variant :=
  if maxblk = 0 ∨ s.cfg.maxBlkHw < maxblk ∨ s.arg0 = 0 then none else Variant.ofCode variant

end Sys2Proof.Machine
end

