-- ==== Sys2Proof/Machine/FrameBuffer.lean ====
section
/-! DEFINITION. Frame buffer commands (41_frame_buffer.md): `PUSH`, `EXTRACT`. -/

namespace Sys2Proof.Machine

/-- The body of `PUSH i` (R140). An unwritten `BUF[i]` is a free value (10_state.md R58, log 4). -/
def bodyPush (i : Nat) (s : State) : State :=
  { s.countDraw i with
    ring := Arr.set s.ring s.rwp (F.ofBits (s.bufWord i))
    rwp := (s.rwp + 1) % s.cfg.n
    hopcnt := if s.hopcnt = s.cfg.ha then 1 else s.hopcnt + 1 }

/-- The body of `EXTRACT` (R141). -/
def bodyExtract (s : State) : State :=
  { s with
    frame := Arr.fill s.frame s.cfg.n
      (fun j => F.mul (Arr.get s.ring ((s.rwp + j) % s.cfg.n)) (s.cfg.waAt j)) }

/-- `PUSH i` (R140). -/
def execPush (i : Nat) (s : State) : Host.Outcome State Fault Refusal :=
  pipelineCommand (blockIndexOk s i) (bodyPush i) s

/-- `EXTRACT` (R141). -/
def execExtract (s : State) : Host.Outcome State Fault Refusal := pipelineCommand true bodyExtract s

end Sys2Proof.Machine
end

