-- ==== Sys2Proof/Machine/OverlapAdd.lean ====
section
/-! DEFINITION. Overlap-add writer and reader (46_overlap_add.md): `OLAW`, `POP`. -/

namespace Sys2Proof.Machine

/-- `T[j]`, a windowed sample of the inverse transform's output (R210). -/
def windowed (s : State) (j : Nat) : F := F.mul (Arr.get s.y j) (s.cfg.wsAt j)

/-- Would the write wrap onto unread cells (R211)? -/
def ringFull (s : State) : Bool := decide (s.cfg.l < s.avail + Nat.max s.cfg.n s.hs)

/-- Is every windowed sample finite (R212)? -/
def frameFinite (s : State) : Bool := (List.range s.cfg.n).all (fun j => (windowed s j).isFinite)

/-- Add `f j` to the cells `WPOS`.. of a ring memory (R210). -/
def ringAdd (s : State) (f : Nat → F) (a : Arr) : Arr :=
  forRange s.cfg.n
    (fun j a => Arr.set a ((s.wpos + j) % s.cfg.l) (F.add (Arr.get a ((s.wpos + j) % s.cfg.l)) (f j))) a

/-- Accumulate the frame, or count it when it is not finite (R210, R212). -/
def accumulate (s : State) : State :=
  if frameFinite s then { s with ola := ringAdd s (windowed s) s.ola, env := ringAdd s s.cfg.wsAt s.env }
  else raiseGuard .numericalInstability s

/-- Advance the writer by `HS` (R210). -/
def advanceWriter (s : State) : State :=
  { s with
    wpos := (s.wpos + s.hs) % s.cfg.l
    avail := s.avail + s.hs
    produced := satAdd s.produced s.hs }

/-- `Warming` becomes `Steady` once `PRODUCED` reaches `LAT` (R217). -/
def settle (s : State) : State :=
  if s.lstate = .warming ∧ s.cfg.lat ≤ s.produced.toNat then { s with lstate := .steady } else s

/-- The body of `OLAW` (R210). -/
def bodyOlaw (s : State) : State :=
  if ringFull s then raiseGuard .bufferBoundsViolation s else settle (advanceWriter (accumulate s))

/-- The sample of a cell: divided by its envelope and scaled where the envelope exceeds `EPS_ENV`, else as it is
(R213, R214). -/
def cellSample (c : Cfg) (a e : F) : F := if F.lt c.epsEnv e then F.mul c.kola (F.div a e) else a

/-- Store an output sample; a sample that is not finite becomes +0 and is counted (R213). -/
def emitSample (i : Nat) (v : F) (s : State) : State :=
  if v.isFinite then s.setBuf i v.toBits
  else (raiseGuard .numericalInstability s).setBuf i F.zero.toBits

/-- Clear the cell at `RPOS` and move on (R213). -/
def consumeCell (s : State) : State :=
  { s with
    ola := Arr.set s.ola s.rpos F.zero
    env := Arr.set s.env s.rpos F.zero
    rpos := (s.rpos + 1) % s.cfg.l
    avail := s.avail - 1 }

/-- The body of `POP i` (R213): pre-roll, shortfall, or a consumed cell. -/
def bodyPop (i : Nat) (s : State) : State :=
  if 0 < s.preroll then
    ({ s with preroll := s.preroll - 1, warmz := satAdd s.warmz 1 } : State).setBuf i F.zero.toBits
  else if s.avail = 0 then
    ({ s with warmz := satAdd s.warmz 1 } : State).setBuf i F.zero.toBits
  else emitSample i (cellSample s.cfg (Arr.get s.ola s.rpos) (Arr.get s.env s.rpos)) (consumeCell s)

/-- `OLAW` (R210). -/
def execOlaw (s : State) : Host.Outcome State Fault Refusal := pipelineCommand true bodyOlaw s

/-- `POP i` (R213). -/
def execPop (i : Nat) (s : State) : Host.Outcome State Fault Refusal :=
  pipelineCommand (blockIndexOk s i) (bodyPop i) s

end Sys2Proof.Machine
end

