-- ==== Sys2Proof/Machine/Flags.lean ====
section
/-! DEFINITION. The status fields of 10_state.md R36 and the codes a host reads (R31, R32, R35). -/

namespace Sys2Proof.Machine

/-- The code of `LSTATE` (10_state.md R31). -/
def LState.code : LState → Nat
  | .cold => 0
  | .warming => 1
  | .steady => 2

/-- The code of `VARIANT` (10_state.md R32). -/
def Variant.code : Variant → Nat
  | .stretch => 0
  | .pitchShift => 1
  | .freeze => 2
  | .gate => 3
  | .smear => 4

/-- The code of `RESULT` (10_state.md R35). -/
def ResultCode.code : ResultCode → Nat
  | .ok => 0
  | .illegal => 1
  | .notPrepared => 2
  | .badArg => 3
  | .prepFail => 4

/-- `STATUS.FRDY`, the source's `frameReady()` (10_state.md R36). -/
def frameReady (s : State) : Bool := decide (s.lstate ≠ .cold) && decide (s.hopcnt = s.cfg.ha)

/-- `STATUS.FROZEN` (10_state.md R36), which is also the `frozen` of 44_modifier.md R180. -/
def frozen (s : State) : Bool := decide (s.variant = .freeze) && s.act.freeze

/-- `STATUS` (10_state.md R36). Bit 2, `BUSY`, reads 0: a command is one atomic step (20_memory.md R86). -/
def status (s : State) : Word :=
  BitVec.ofNat 32
    (s.lstate.code + 2 ^ 3 * (frameReady s).toNat + 2 ^ 4 * s.cmderr.toNat + 2 ^ 5 * s.variant.code
      + 2 ^ 8 * (frozen s).toNat)

end Sys2Proof.Machine
end

