-- ==== Sys2Proof/Machine/Modifier.lean ====
section
/-! DEFINITION. The spectral modifier (44_modifier.md): `MODIFY`, step by step. -/

namespace Sys2Proof.Machine

/-- `valid` (R180): `PH[0]` and every `MAG[k]`, `TIF[k]` are finite. -/
def frameValid (s : State) : Bool :=
  (Arr.get s.ph 0).isFinite
    && (List.range (s.cfg.h + 1)).all (fun k => (Arr.get s.mag k).isFinite && (Arr.get s.tif k).isFinite)

/-- Step 1 (R181): ignore the frame while frozen, reject a frame that is not finite, else accept it. -/
def acceptFrame (s : State) : State :=
  if frozen s then s
  else if frameValid s then
    { s with
      curmag := Arr.fill s.curmag (s.cfg.h + 1) (fun k => Arr.get s.mag k)
      curif := Arr.fill s.curif (s.cfg.h + 1) (fun k => Arr.get s.tif k)
      synph := Arr.set s.synph 0 (F.wrap (Arr.get s.ph 0)) }
  else raiseGuard .numericalInstability s

/-- `ratio` (R180, 45_rotator.md R200): `ACT.PITCH` in variant PitchShift, else 1.0. -/
def pitchRatio (s : State) : F := if s.variant = .pitchShift then s.act.pitch else F.one

/-- `kp`, the synthesis bin of analysis bin `k` (R182). -/
def synthBin (ratio : F) (k : Nat) : Int := F.rhaz (F.mul (F.ofInt k) ratio)

/-- Deposit analysis bin `k`: magnitudes add, the last frequency stays, bins above H are dropped (R182). -/
def depositBin (ratio : F) (k : Nat) (s : State) : State :=
  let kp := synthBin ratio k
  if 0 ≤ kp ∧ kp ≤ (s.cfg.h : Int) then
    { s with
      smag := Arr.set s.smag kp.toNat (F.add (Arr.get s.smag kp.toNat) (Arr.get s.curmag k))
      sif := Arr.set s.sif kp.toNat (Arr.get s.curif k) }
  else s

/-- Clear `SMAG` and `SIF` (R180, step 2). -/
def clearSynthBins (s : State) : State :=
  { s with
    smag := Arr.fill s.smag (s.cfg.h + 1) (fun _ => F.zero)
    sif := Arr.fill s.sif (s.cfg.h + 1) (fun _ => F.zero) }

/-- `SIF[0] <- +0` (R180, step 2). -/
def clearSynthDc (s : State) : State := { s with sif := Arr.set s.sif 0 F.zero }

/-- Step 2 (R182): map analysis bins to synthesis bins. -/
def mapBins (s : State) : State :=
  clearSynthDc (forRange (s.cfg.h + 1) (depositBin (pitchRatio s)) (clearSynthBins s))

/-- The largest magnitude of the frame (R180, step 3). -/
def peak (h : Nat) (smag : Arr) : F :=
  forRange (h + 1) (fun k p => if F.lt p (Arr.get smag k) then Arr.get smag k else p) F.zero

/-- Step 3 (R183): in variant Gate, zero the bins of the sub-range that lie below the threshold. -/
def gateBins (s : State) : State :=
  if s.variant = .gate then
    let thr := F.mul s.act.gthr (peak s.cfg.h s.smag)
    { s with
      smag := forSpan s.act.glo s.act.ghi
        (fun k a => if F.lt (Arr.get a k) thr then Arr.set a k F.zero else a) s.smag }
  else s

/-- The stretched hop, clamped to 1..HSMAX (R186). -/
def stretchHop (c : Cfg) (stretch : F) : Nat :=
  (min (max (F.rhaz (F.mul (F.ofInt c.ha) stretch)) 1) (c.hsMax : Int)).toNat

/-- Step 4 (R186): the synthesis hop. -/
def setHop (s : State) : State :=
  { s with hs := if s.variant = .stretch then stretchHop s.cfg s.act.stretch else s.cfg.ha }

/-- The body of `MODIFY` (R180): steps 2 to 4 always run. -/
def bodyModify (s : State) : State := setHop (gateBins (mapBins (acceptFrame s)))

/-- `MODIFY` (R180). -/
def execModify (s : State) : Host.Outcome State Fault Refusal := pipelineCommand true bodyModify s

end Sys2Proof.Machine
end

