-- ==== Sys2Proof/Machine/Rotator.lean ====
section
/-! DEFINITION. Phase accumulator and rotator (45_rotator.md): `ACCUM`, `HERM`. -/

namespace Sys2Proof.Machine

/-- The phase advance of a bin (R200): the two products in that order. -/
def advance (s : State) (k : Nat) : F :=
  F.mul (F.mul (Arr.get s.sif k) (F.ofInt s.hs)) (pitchRatio s)

/-- The body of `ACCUM` (R200): bins 1 to H. -/
def bodyAccum (s : State) : State :=
  { s with
    synph := forSpan 1 s.cfg.h
      (fun k a => Arr.set a k (F.wrap (F.add (Arr.get a k) (advance s k)))) s.synph }

/-- The generator's step: a 32-bit xorshift (R204). -/
def xorshift (x : Word) : Word :=
  let x := x ^^^ (x <<< 13)
  let x := x ^^^ (x >>> 17)
  x ^^^ (x <<< 5)

/-- The number in [-1, 1) that a generator state stands for: its bits 31:8 in two's complement, times 2^-23 (R204). -/
def smearUnit (x : Word) : F := F.mul (F.ofInt (x.extractLsb' 8 24).toInt) F.twoPowNeg23

/-- The smeared phase of a bin (R203), the generator having just stepped to `x`. -/
def smearPhase (smear synph : F) (x : Word) : F :=
  F.wrap (F.add synph (F.mul (F.mul smear F.pi) (smearUnit x)))

/-- `PHI[k]` (R203): smeared in variant Smear for bins 1 to H-1, which draws from the generator, else `SYNPH[k]`. -/
def choosePhase (k : Nat) (s : State) : State :=
  if s.variant = .smear ∧ 1 ≤ k ∧ k + 1 ≤ s.cfg.h then
    { s with
      prng := xorshift s.prng
      phi := Arr.set s.phi k (smearPhase s.act.smear (Arr.get s.synph k) (xorshift s.prng)) }
  else { s with phi := Arr.set s.phi k (Arr.get s.synph k) }

/-- Rotate bin `k`: its magnitude times the cosine and sine of `PHI[k]` (R203). -/
def rotateBin (k : Nat) (s : State) : State :=
  { s with
    xr := Arr.set s.xr k (F.mul (Arr.get s.smag k) (s.cfg.num.fns.fcos (Arr.get s.phi k)))
    xi := Arr.set s.xi k (F.mul (Arr.get s.smag k) (s.cfg.num.fns.fsin (Arr.get s.phi k))) }

/-- `XI[0] <- +0; XI[H] <- +0`, the invariant enforced every frame (R203). -/
def forceReal (s : State) : State := { s with xi := Arr.set (Arr.set s.xi 0 F.zero) s.cfg.h F.zero }

/-- `X[k] = conj(X[N-k])` for one k (R203). -/
def mirrorBin (k : Nat) (s : State) : State :=
  { s with
    xr := Arr.set s.xr k (Arr.get s.xr (s.cfg.n - k))
    xi := Arr.set s.xi k (F.neg (Arr.get s.xi (s.cfg.n - k))) }

/-- The body of `HERM` (R203). -/
def bodyHerm (s : State) : State :=
  let s := forRange (s.cfg.h + 1) (fun k s => rotateBin k (choosePhase k s)) s
  let s := forceReal s
  forSpan (s.cfg.h + 1) (s.cfg.n - 1) mirrorBin s

/-- `ACCUM` (R200). -/
def execAccum (s : State) : Host.Outcome State Fault Refusal := pipelineCommand true bodyAccum s

/-- `HERM` (R203). -/
def execHerm (s : State) : Host.Outcome State Fault Refusal := pipelineCommand true bodyHerm s

end Sys2Proof.Machine
end

