-- ==== Sys2Proof/Machine/Tracker.lean ====
section
/-! DEFINITION. Polar conversion and phase tracker (43_phase_tracker.md): `POLAR`, `TRACK`. -/

namespace Sys2Proof.Machine

/-- The magnitude of a rectangular pair (R170). -/
def magnitude (re im : F) : F := F.sqrt (F.add (F.mul re re) (F.mul im im))

/-- The body of `POLAR` (R170). -/
def bodyPolar (s : State) : State :=
  { s with
    mag := Arr.fill s.mag (s.cfg.h + 1) (fun k => magnitude (Arr.get s.xr k) (Arr.get s.xi k))
    ph := Arr.fill s.ph (s.cfg.h + 1) (fun k => s.cfg.num.fns.fatan2 (Arr.get s.xi k) (Arr.get s.xr k)) }

/-- `TIF[k]` of bin k from its phase and the previous one (R171); +0 for bin 0 (R172). -/
def instFreq (c : Cfg) (k : Nat) (ph lastph : F) : F :=
  if k = 0 then F.zero
  else
    let d := F.sub ph lastph
    let r := F.wrap (F.sub d (c.expAdv k))
    let f := F.add (c.omega k) (F.div r (F.ofInt c.ha))
    let lim := F.mul F.two (c.omega k)
    if F.lt lim f then lim else f

/-- The body of `TRACK` (R171, R174): every `TIF` first, then `LASTPH`. -/
def bodyTrack (s : State) : State :=
  { s with
    tif := Arr.fill s.tif (s.cfg.h + 1) (fun k => instFreq s.cfg k (Arr.get s.ph k) (Arr.get s.lastph k))
    lastph := Arr.fill s.lastph (s.cfg.h + 1) (fun k => Arr.get s.ph k) }

/-- `POLAR` (R170). -/
def execPolar (s : State) : Host.Outcome State Fault Refusal := pipelineCommand true bodyPolar s

/-- `TRACK` (R171). -/
def execTrack (s : State) : Host.Outcome State Fault Refusal := pipelineCommand true bodyTrack s

end Sys2Proof.Machine
end

