-- ==== Sys2Proof/Machine/Transform.lean ====
section
/-! DEFINITION. Transform commands (42_fft.md): `LOADX`, `BITREV`, `BFLY`, `ZIM`, `SCALEY`, `FFTF`, `FFTI`. -/

namespace Sys2Proof.Machine

/-- The body of `LOADX` (R150). -/
def bodyLoadx (s : State) : State :=
  { s with
    xr := forRange s.cfg.n (fun n a => Arr.set a (bitrev s.cfg.log2n n) (Arr.get s.frame n)) s.xr
    xi := forRange s.cfg.n (fun n a => Arr.set a (bitrev s.cfg.log2n n) F.zero) s.xi }

/-- Exchange every element with the one at its reversed index, once (R151). -/
def permute (c : Cfg) (a : Arr) : Arr :=
  forRange c.n (fun n a => if n < bitrev c.log2n n then Arr.swap a n (bitrev c.log2n n) else a) a

/-- The body of `BITREV` (R151). -/
def bodyBitrev (s : State) : State := { s with xr := permute s.cfg s.xr, xi := permute s.cfg s.xi }

/-- `ia`, the index of a butterfly's first operand (R152). -/
def bflyA (stage q : Nat) : Nat := q / (2 ^ stage / 2) * 2 ^ stage + q % (2 ^ stage / 2)

/-- `ib`, the index of a butterfly's second operand (R152). -/
def bflyB (stage q : Nat) : Nat := bflyA stage q + 2 ^ stage / 2

/-- `t`, a butterfly's twiddle index (R152). -/
def bflyT (c : Cfg) (stage q : Nat) : Nat := q % (2 ^ stage / 2) * (c.n / 2 ^ stage)

/-- `wi`, the imaginary part of a butterfly's twiddle: conjugated in the inverse (R152). -/
def twiddleIm (c : Cfg) (inv : Bool) (t : Nat) : F := if inv then c.tws t else F.neg (c.tws t)

/-- The body of `BFLY inv, stage, q` (R152): all four operands are read before any is written. -/
def bodyBfly (inv : Bool) (stage q : Nat) (s : State) : State :=
  let ia := bflyA stage q
  let ib := bflyB stage q
  let wr := s.cfg.twc (bflyT s.cfg stage q)
  let wi := twiddleIm s.cfg inv (bflyT s.cfg stage q)
  let ar := Arr.get s.xr ia
  let ai := Arr.get s.xi ia
  let br := Arr.get s.xr ib
  let bi := Arr.get s.xi ib
  let tr := F.sub (F.mul wr br) (F.mul wi bi)
  let ti := F.add (F.mul wr bi) (F.mul wi br)
  { s with
    xr := Arr.set (Arr.set s.xr ia (F.add ar tr)) ib (F.sub ar tr)
    xi := Arr.set (Arr.set s.xi ia (F.add ai ti)) ib (F.sub ai ti) }

/-- The body of `ZIM` (R153). -/
def bodyZim (s : State) : State := { s with xi := Arr.set (Arr.set s.xi 0 F.zero) s.cfg.h F.zero }

/-- The body of `SCALEY` (R155). -/
def bodyScaley (s : State) : State :=
  { s with y := Arr.fill s.y s.cfg.n (fun j => F.mul (Arr.get s.xr j) s.cfg.invN) }

/-- All stages of a transform, each in ascending order of butterflies (R154, R156). -/
def stages (inv : Bool) (s : State) : State :=
  forSpan 1 s.cfg.log2n (fun stage s => forRange s.cfg.h (fun q s => bodyBfly inv stage q s) s) s

/-- The body of `FFTF` (R154). -/
def bodyFftf (s : State) : State := bodyZim (stages false (bodyLoadx s))

/-- The body of `FFTI` (R156). -/
def bodyFfti (s : State) : State := bodyScaley (stages true (bodyBitrev s))

/-- `LOADX` (R150). -/
def execLoadx (s : State) : Host.Outcome State Fault Refusal := pipelineCommand true bodyLoadx s

/-- `BITREV` (R151). -/
def execBitrev (s : State) : Host.Outcome State Fault Refusal := pipelineCommand true bodyBitrev s

/-- `BFLY inv, stage, q` (R152). -/
def execBfly (inv : Bool) (stage q : Nat) (s : State) : Host.Outcome State Fault Refusal :=
  pipelineCommand (butterflyOk s stage q) (bodyBfly inv stage q) s

/-- `ZIM` (R153). -/
def execZim (s : State) : Host.Outcome State Fault Refusal := pipelineCommand true bodyZim s

/-- `SCALEY` (R155). -/
def execScaley (s : State) : Host.Outcome State Fault Refusal := pipelineCommand true bodyScaley s

/-- `FFTF` (R154). -/
def execFftf (s : State) : Host.Outcome State Fault Refusal := pipelineCommand true bodyFftf s

/-- `FFTI` (R156). -/
def execFfti (s : State) : Host.Outcome State Fault Refusal := pipelineCommand true bodyFfti s

end Sys2Proof.Machine
end

