-- ==== Sys2Proof/Machine/Facade.lean ====
section
/-! DEFINITION. Sequencer and lifecycle commands (47_facade.md): `NOP`, `PREPARE`, `RESET`, `PROCESS`, `FRAME`. -/

namespace Sys2Proof.Machine

/-- What a successful `PREPARE` leaves (R224): cleared state, the operands latched, `ACT` copied from `PUB`, `Warming`. -/
def prepared (v : Variant) (maxblk : Nat) (s : State) : State :=
  { clearWorkingState s with
    variant := v
    maxblk := BitVec.ofNat 21 maxblk
    srate := s.arg0
    act := s.pub
    lstate := .warming }

/-- The body of `RESET` (R225). -/
def bodyReset (s : State) : State := { clearWorkingState s with lstate := .cold }

/-- The body of `FRAME` (R226): the pipeline in its order, then `FRAMECNT`. -/
def bodyFrame (s : State) : State :=
  let s := bodyExtract s
  let s := bodyFftf s
  let s := bodyPolar s
  let s := bodyTrack s
  let s := bodyModify s
  let s := bodyAccum s
  let s := bodyHerm s
  let s := bodyFfti s
  let s := bodyOlaw s
  { s with framecnt := s.framecnt + 1 }

/-- `ACT <- PUB`, the parameter latch (R222). -/
def latch (s : State) : State := { s with act := s.pub }

/-- Run the frame pipeline when the hop is complete (R222). -/
def frameIfDue (s : State) : State := if s.hopcnt = s.cfg.ha then bodyFrame s else s

/-- One sample of the block loop: push, frame if due, pop (R222). -/
def processSample (i : Nat) (s : State) : State := bodyPop i (frameIfDue (bodyPush i s))

/-- The body of `PROCESS n` (R222). -/
def bodyProcess (n : Nat) (s : State) : State := forRange n processSample (latch s)

/-- `NOP` (R223): no effect but the end of a command; accepted in every lifecycle state. -/
def execNop (s : State) : Host.Outcome State Fault Refusal := .next (finish .ok s)

/-- `PREPARE variant, maxblk` (R224): a failure leaves `Cold` and changes nothing else. -/
def execPrepare (variant maxblk : Nat) (s : State) : Host.Outcome State Fault Refusal :=
  match preparable s variant maxblk with
  | some v => .next (finish .ok (prepared v maxblk s))
  | none => .next (finish .prepFail { s with lstate := .cold })

/-- `RESET` (R225): accepted in every lifecycle state. -/
def execReset (s : State) : Host.Outcome State Fault Refusal := .next (finish .ok (bodyReset s))

/-- `PROCESS n` (R222). -/
def execProcess (n : Nat) (s : State) : Host.Outcome State Fault Refusal :=
  pipelineCommand (blockLengthOk s n) (bodyProcess n) s

/-- `FRAME` (R226). -/
def execFrame (s : State) : Host.Outcome State Fault Refusal := pipelineCommand true bodyFrame s

end Sys2Proof.Machine
end

