-- ==== Sys2Proof/Machine/Dispatch.lean ====
section
/-! DEFINITION. One arm per command (30_encoding.md R114), each one call of its meaning. -/

namespace Sys2Proof.Machine

def exec (i : Instr) (s : State) : Host.Outcome State Fault Refusal :=
  match i with
  | .nop => Sys2Proof.Machine.execNop s
  | .prepare variant maxblk => Sys2Proof.Machine.execPrepare variant maxblk s
  | .reset => Sys2Proof.Machine.execReset s
  | .process n => Sys2Proof.Machine.execProcess n s
  | .frame => Sys2Proof.Machine.execFrame s
  | .push k => Sys2Proof.Machine.execPush k s
  | .extract => Sys2Proof.Machine.execExtract s
  | .loadx => Sys2Proof.Machine.execLoadx s
  | .bitrev => Sys2Proof.Machine.execBitrev s
  | .bfly inv stage q => Sys2Proof.Machine.execBfly inv stage q s
  | .zim => Sys2Proof.Machine.execZim s
  | .scaley => Sys2Proof.Machine.execScaley s
  | .fftf => Sys2Proof.Machine.execFftf s
  | .ffti => Sys2Proof.Machine.execFfti s
  | .polar => Sys2Proof.Machine.execPolar s
  | .track => Sys2Proof.Machine.execTrack s
  | .modify => Sys2Proof.Machine.execModify s
  | .accum => Sys2Proof.Machine.execAccum s
  | .herm => Sys2Proof.Machine.execHerm s
  | .olaw => Sys2Proof.Machine.execOlaw s
  | .pop k => Sys2Proof.Machine.execPop k s

end Sys2Proof.Machine
end

