-- ==== Sys2Proof/Machine/Params.lean ====
section
/-! DEFINITION. Parameter registers: the host's write, its clamp, and the seven mappings (47_facade.md R230 to R237). -/

namespace Sys2Proof.Machine

/-- Is a normalized parameter in the identity snap band around 0.5 (R231, R232)? -/
def inSnapBand (c : Cfg) (p : F) : Bool := F.le (F.abs (F.sub p F.half)) c.snapW

/-- `map_0`, `STRETCH` (R231). -/
def mapStretch (c : Cfg) (p : F) : F :=
  if inSnapBand c p then F.one
  else
    let v :=
      if F.lt p F.half then F.add F.quarter (F.mul F.oneHalf p)
      else F.add F.one (F.mul F.six (F.sub p F.half))
    F.clamp v F.quarter F.four

/-- `map_1`, `PITCH` (R232). -/
def mapPitch (c : Cfg) (p : F) : F :=
  if inSnapBand c p then F.one
  else
    let semis := F.sub (F.mul F.twentyFour p) F.twelve
    F.clamp (c.num.fns.fexp2 (F.div semis F.twelve)) F.half F.two

/-- `map_2`, `FREEZE` (R233). -/
def mapFreeze (p : F) : Bool := F.le F.half p

/-- `map_4` and `map_5`, `GLO` and `GHI` (R235, R236). -/
def mapBinFraction (c : Cfg) (p : F) : Nat := (F.rhaz (F.mul p (F.ofInt c.h))).toNat

/-- `PARAM[i]` (10_state.md R42). -/
def ParamRegs.get (r : ParamRegs) : ParamIndex → F
  | .stretch => r.stretch
  | .pitch => r.pitch
  | .freeze => r.freeze
  | .gthr => r.gthr
  | .glo => r.glo
  | .ghi => r.ghi
  | .smear => r.smear

/-- `PARAM[i] <- v` (R230). -/
def ParamRegs.set (r : ParamRegs) (v : F) : ParamIndex → ParamRegs
  | .stretch => { r with stretch := v }
  | .pitch => { r with pitch := v }
  | .freeze => { r with freeze := v }
  | .gthr => { r with gthr := v }
  | .glo => { r with glo := v }
  | .ghi => { r with ghi := v }
  | .smear => { r with smear := v }

/-- `PUB.field(i) <- map_i(v)` (R230 to R237); `map_3` and `map_6` are the identity (R234, R237). -/
def publish (c : Cfg) (v : F) (m : Mapped) : ParamIndex → Mapped
  | .stretch => { m with stretch := mapStretch c v }
  | .pitch => { m with pitch := mapPitch c v }
  | .freeze => { m with freeze := mapFreeze v }
  | .gthr => { m with gthr := v }
  | .glo => { m with glo := mapBinFraction c v }
  | .ghi => { m with ghi := mapBinFraction c v }
  | .smear => { m with smear := v }

/-- Is a written value outside [0, 1] (R230)? -/
def outsideUnit (v : F) : Bool := F.lt v F.zero || F.lt F.one v

/-- The value a finite write leaves: clamped to [0, 1], a zero as +0 (R230). -/
def clampUnit (v : F) : F :=
  if F.lt v F.zero then F.zero else if F.lt F.one v then F.one else if v.isZero then F.zero else v

/-- `PARAM[i] <- v` and its published mapping (R230). -/
def storeParam (i : ParamIndex) (v : F) (s : State) : State :=
  { s with param := s.param.set v i, pub := publish s.cfg v s.pub i }

/-- A host write of word `u` to `PARAM[i]` (R230). -/
def paramWrite (i : ParamIndex) (u : Word) (s : State) : State :=
  let v := F.ofBits u
  if v.isFinite then
    storeParam i (clampUnit v) (if outsideUnit v then raiseGuard .parameterOutOfRange s else s)
  else raiseGuard .parameterOutOfRange s

end Sys2Proof.Machine
end

