-- ==== Sys2Proof/Machine/HostPort.lean ====
section
/-! DEFINITION. The host's side of the engine: the register map (10_state.md R62), reads and writes (20_memory.md R81),
the command port (47_facade.md R220), the byte-bus bridge (20_memory.md R82, R83) and hardware reset
(70_reset_and_hazards.md R280). -/

namespace Sys2Proof.Machine

/-- The parameter register at a word address (10_state.md R62). -/
def paramAt : Nat → Option ParamIndex
  | 0x020 => some .stretch
  | 0x021 => some .pitch
  | 0x022 => some .freeze
  | 0x023 => some .gthr
  | 0x024 => some .glo
  | 0x025 => some .ghi
  | 0x026 => some .smear
  | _ => none

/-- The element of `BUF` at a word address, if it lies in the window (10_state.md R62). -/
def bufIndex (c : Cfg) (a : Nat) : Option Nat :=
  if bufBase ≤ a ∧ a < bufBase + c.maxBlkHw then some (a - bufBase) else none

/-- The control and status registers 0x000 to 0x013 (10_state.md R62); `CMD` reads 0 (R44). -/
def controlRead (s : State) : Nat → Option Word
  | 0x000 => some 0
  | 0x001 => some (status s)
  | 0x002 => some (BitVec.ofNat 32 s.result.code)
  | 0x003 => some (BitVec.ofNat 32 s.cfg.lat)
  | 0x004 => some 7
  | 0x005 => some s.arg0
  | 0x006 => some s.srate
  | 0x007 => some (s.maxblk.setWidth 32)
  | 0x008 => some s.cseq
  | 0x009 => some s.diagNi
  | 0x00A => some s.diagBbv
  | 0x00B => some s.diagPor
  | 0x00C => some s.warmz
  | 0x00D => some s.produced
  | 0x00E => some s.framecnt
  | 0x00F => some (BitVec.ofNat 32 s.hs)
  | 0x010 => some (BitVec.ofNat 32 s.avail)
  | 0x011 => some (BitVec.ofNat 32 s.cfg.n)
  | 0x012 => some (BitVec.ofNat 32 s.cfg.ha)
  | 0x013 => some (BitVec.ofNat 32 s.cfg.l)
  | _ => none

/-- `MemRead(addr, 1)` (20_memory.md R81): a register, a parameter, an element of `BUF`, or 0. -/
def memRead (s : State) (addr : BitVec 22) : Word :=
  match controlRead s addr.toNat with
  | some w => w
  | none =>
    match paramAt addr.toNat with
    | some i => (s.param.get i).toBits
    | none =>
      match bufIndex s.cfg addr.toNat with
      | some i => s.bufWord i
      | none => 0

/-- `execute(w)` (47_facade.md R220): the decoded command, or `ILLEGAL` and nothing else (30_encoding.md R115). -/
def executeWord (w : Word) (s : State) : Host.Outcome State Fault Refusal :=
  match decode w with
  | .ok i => exec i s
  | .error _ => .next (finish .illegal s)

/-- A write that is no command (20_memory.md R81): `ARG0`, a parameter, an element of `BUF`, or no effect. -/
def plainWrite (addr : BitVec 22) (v : Word) (s : State) : State :=
  if addr.toNat = 0x005 then { s with arg0 := v }
  else
    match paramAt addr.toNat with
    | some i => paramWrite i v s
    | none =>
      match bufIndex s.cfg addr.toNat with
      | some i => s.setBuf i v
      | none => s

/-- `MemWrite(addr, 1, v)` (20_memory.md R81). -/
def memWrite (addr : BitVec 22) (v : Word) (s : State) : Host.Outcome State Fault Refusal :=
  if addr.toNat = 0x000 then executeWord v s else .next (plainWrite addr v s)

/-- The word address of an aligned 32-bit bus access; none for any other access (20_memory.md R82, R83). -/
def bridged (byteAddr : BitVec 24) (size : Nat) : Option (BitVec 22) :=
  if size = 4 ∧ byteAddr.toNat % 4 = 0 then some (BitVec.ofNat 22 (byteAddr.toNat / 4)) else none

/-- Hardware reset from any state (70_reset_and_hazards.md R280): the state of 10_state.md R61, of the same build. The
accesses still pending stay, and so does what was last read; unwritten elements of BUF get fresh free values (log 15). -/
def hardwareReset (s : State) : State :=
  { State.hardwareReset s.cfg with pending := s.pending, rdata := s.rdata, draws := s.draws + 1 }

/-- One access takes effect, completely (20_memory.md R86). -/
def access (a : HostAccess) (s : State) : Host.Outcome State Fault Refusal :=
  match a with
  | .read addr => .next { s with rdata := memRead s addr }
  | .write addr v => memWrite addr v s
  | .busRead byteAddr size =>
    match bridged byteAddr size with
    | some addr => .next { s with rdata := memRead s addr }
    | none => .next { s with rdata := 0 }
  | .busWrite byteAddr size v =>
    match bridged byteAddr size with
    | some addr => memWrite addr v s
    | none => .next s
  | .hardwareReset => .next (hardwareReset s)

/-- Take the first pending access off the stream and perform it; with none pending the engine is idle and keeps all
state (60_exceptions.md R267). -/
def performNext (s : State) : Host.Outcome State Fault Refusal :=
  match s.pending with
  | [] => .next s
  | a :: rest => access a { s with pending := rest }

/-- A host write of a command word: the access that carries an instruction (30_encoding.md R110). -/
def commandWrite (w : Word) : HostAccess := .write 0x000 w

end Sys2Proof.Machine
end

