-- ==== Sys2Proof/Machine/Step.lean ====
section
/-! DEFINITION. One step: one host access, a command among them, takes effect (00_scope.md R3, 20_memory.md R86). -/

namespace Sys2Proof.Machine

/-- One step of the engine. A configuration that is no build of the engine is refused (93_implementation_defined.md U9). -/
def step (s : State) : Host.Outcome State Fault Refusal :=
  if s.cfg.wf then performNext s else .refused .buildOutsideSpec

/-- `s` with the instruction of `nbits` bits `w` as its next host access: a write to `CMD`. -/
def State.withFetchWord (s : State) (nbits w : Nat) : State :=
  { s with pending := commandWrite (BitVec.ofNat 32 (w % 2 ^ nbits)) :: s.pending }

end Sys2Proof.Machine
end

