-- ==== Sys2Proof/Safety.lean ====
section
/-! DEFINITION. The terms in which statements about the engine are made: which commands need a prepared engine, runs of
commands and of host accesses, and the invariants of 10_state.md R60 and 46_overlap_add.md R219. -/

namespace Sys2Proof

/-- lo ≤ a ≤ hi; false for NaN (00_scope.md R18). -/
def F.within (lo hi a : F) : Bool := F.le lo a && F.le a hi

/-- A normalized parameter: in [0, 1], never NaN, never -0 (10_state.md R42). -/
def F.isUnit (a : F) : Bool := F.within .zero .one a && decide (a ≠ F.neg .zero)

/-- Not negative, its sign bit clear: a finite datum from +0 up, or +∞. -/
def F.isNonneg : F → Bool
  | .nan => false
  | .inf s => !s
  | .fin s _ => !s

/-- A phase that `wrap` left: finite and in (-PI, PI] (10_state.md R54). -/
def F.isWrapped (a : F) : Bool := a.isFinite && F.lt (F.neg .pi) a && F.le a .pi

/-- Finite and at most TWO_PI in magnitude: the bound 45_rotator.md R201 gives for a frequency. -/
def F.isTrackedFreq (a : F) : Bool := a.isFinite && F.le (F.abs a) .twoPi

/-- 2^127 / N: N window entries of at most this much add up to a finite envelope. -/
def Cfg.windowCap (c : Cfg) : Nat := 2 ^ 127 / c.n

/-- Every entry of the synthesis window is small enough for the envelope not to overflow (log 19). The default window's
entries are at most 1. -/
abbrev Cfg.WindowBounded (c : Cfg) : Prop := ∀ j, j < c.n → F.le (c.wsAt j) (F.ofInt c.windowCap) = true

namespace Machine

/-- Column "needs prepared" of 30_encoding.md R114. -/
def needsPrepared : Instr → Bool
  | .nop | .prepare _ _ | .reset => false
  | .process _ | .frame | .push _ | .extract | .loadx | .bitrev | .bfly _ _ _ | .zim | .scaley | .fftf | .ffti
  | .polar | .track | .modify | .accum | .herm | .olaw | .pop _ => true

/-- What a refused command leaves (47_facade.md R220): `RESULT`, `CMDERR` and `CSEQ` change and nothing else does. -/
def refusedWith (r : ResultCode) (s : State) : State := { s with result := r, cmderr := true, cseq := s.cseq + 1 }

/-- Execute a list of commands one after the other; none if one of them does not end in a next state. -/
def execAll : List Instr → State → Option State
  | [], s => some s
  | i :: is, s =>
    match exec i s with
    | .next t => execAll is t
    | .fault _ => none
    | .refused _ => none

/-- Let a list of host accesses take effect one after the other (20_memory.md R86). -/
def performAll : List HostAccess → State → Option State
  | [], s => some s
  | a :: rest, s =>
    match access a s with
    | .next t => performAll rest t
    | .fault _ => none
    | .refused _ => none

/-- The butterflies of a whole transform, stage by stage, in ascending order (42_fft.md R154, R156). -/
def butterflies (c : Cfg) (inv : Bool) : List Instr :=
  (List.range c.log2n).flatMap fun i => (List.range c.h).map fun q => .bfly inv (i + 1) q

/-- The sequence `FFTF` is defined as (42_fft.md R154). -/
def forwardCommands (c : Cfg) : List Instr := .loadx :: butterflies c false ++ [.zim]

/-- The sequence `FFTI` is defined as (42_fft.md R156). -/
def inverseCommands (c : Cfg) : List Instr := .bitrev :: butterflies c true ++ [.scaley]

/-- The sequence `FRAME` is defined as, but for its count (47_facade.md R226). -/
def frameCommands : List Instr := [.extract, .fftf, .polar, .track, .modify, .accum, .herm, .ffti, .olaw]

/-- The mapped set of a parameter set (47_facade.md R231 to R237). -/
def mappedOf (c : Cfg) (r : ParamRegs) : Mapped where
  stretch := mapStretch c r.stretch
  pitch := mapPitch c r.pitch
  freeze := mapFreeze r.freeze
  gthr := r.gthr
  glo := mapBinFraction c r.glo
  ghi := mapBinFraction c r.ghi
  smear := r.smear

/-- The ranges of 10_state.md R43. -/
structure Mapped.InRange (c : Cfg) (m : Mapped) : Prop where
  stretch : F.within .quarter .four m.stretch = true
  pitch : F.within .half .two m.pitch = true
  gthr : F.within .zero .one m.gthr = true
  glo : m.glo ≤ c.h
  ghi : m.ghi ≤ c.h
  smear : F.within .zero .one m.smear = true

/-- The stretch ratio of a normalized parameter as 47_facade.md R231 draws it, without its last clamp, which R238 says
never binds. -/
def stretchCurve (c : Cfg) (p : F) : F :=
  if F.le (F.abs (F.sub p .half)) c.snapW then .one
  else if F.lt p .half then F.add .quarter (F.mul .oneHalf p)
  else F.add .one (F.mul .six (F.sub p .half))

/-- The pitch ratio of a normalized parameter as 47_facade.md R232 draws it, its clamp to [0.5, 2] written out. -/
def pitchCurve (c : Cfg) (p : F) : F :=
  if F.le (F.abs (F.sub p .half)) c.snapW then .one
  else
    let v := c.num.fns.fexp2 (F.div (F.sub (F.mul .twentyFour p) .twelve) .twelve)
    if F.lt v .half then .half else if F.lt .two v then .two else v

/-- Field `i` of `m` is what 47_facade.md R231 to R237 compute from the normalized parameter `p`. -/
def Mapped.FollowsCurve (c : Cfg) (p : F) (m : Mapped) : ParamIndex → Prop
  | .stretch => m.stretch = stretchCurve c p
  | .pitch => m.pitch = pitchCurve c p
  | .freeze => m.freeze = F.le .half p
  | .gthr => m.gthr = p
  | .glo => (m.glo : Int) = F.rhaz (F.mul p (F.ofInt c.h))
  | .ghi => (m.ghi : Int) = F.rhaz (F.mul p (F.ofInt c.h))
  | .smear => m.smear = p

/-- The sets `m` and `m'` agree in every field but field `i` (47_facade.md R230: a write changes one parameter). -/
def Mapped.AgreeBut (m m' : Mapped) : ParamIndex → Prop
  | .stretch => m' = { m with stretch := m'.stretch }
  | .pitch => m' = { m with pitch := m'.pitch }
  | .freeze => m' = { m with freeze := m'.freeze }
  | .gthr => m' = { m with gthr := m'.gthr }
  | .glo => m' = { m with glo := m'.glo }
  | .ghi => m' = { m with ghi := m'.ghi }
  | .smear => m' = { m with smear := m'.smear }

/-- Every normalized parameter is in [0, 1], never NaN, never -0 (10_state.md R42). -/
def ParamRegs.isUnit (r : ParamRegs) : Bool :=
  r.stretch.isUnit && r.pitch.isUnit && r.freeze.isUnit && r.gthr.isUnit && r.glo.isUnit && r.ghi.isUnit
    && r.smear.isUnit

/-- Every memory holds its own elements only, in its canonical form (10_state.md R50 to R58). -/
structure State.MemoriesWf (s : State) : Prop where
  ring : Arr.wf s.cfg.n s.ring
  frame : Arr.wf s.cfg.n s.frame
  xr : Arr.wf s.cfg.n s.xr
  xi : Arr.wf s.cfg.n s.xi
  mag : Arr.wf (s.cfg.h + 1) s.mag
  ph : Arr.wf (s.cfg.h + 1) s.ph
  tif : Arr.wf (s.cfg.h + 1) s.tif
  lastph : Arr.wf (s.cfg.h + 1) s.lastph
  synph : Arr.wf (s.cfg.h + 1) s.synph
  curmag : Arr.wf (s.cfg.h + 1) s.curmag
  curif : Arr.wf (s.cfg.h + 1) s.curif
  smag : Arr.wf (s.cfg.h + 1) s.smag
  sif : Arr.wf (s.cfg.h + 1) s.sif
  phi : Arr.wf (s.cfg.h + 1) s.phi
  y : Arr.wf s.cfg.n s.y
  ola : Arr.wf s.cfg.l s.ola
  env : Arr.wf s.cfg.l s.env
  buf : Memory.wf s.buf
  bufWindow : ∀ e ∈ s.buf, bufByteAddr 0 0 ≤ e.1 ∧ e.1 < bufByteAddr s.cfg.maxBlkHw 0

/-- `ENV` is finite (46_overlap_add.md R219), by what keeps it so: a cell gathers at most N window entries, and the cell
`d` places ahead of the writer, unless it holds unread samples, has gathered at most N - 1 - d of them. -/
structure State.EnvelopeBounded (s : State) : Prop where
  finite : ∀ c, c < s.cfg.l → (Arr.get s.env c).isFinite = true
  cells : ∀ c, c < s.cfg.l → F.le (Arr.get s.env c) (F.ofInt (s.cfg.n * s.cfg.windowCap : Nat)) = true
  ahead : ∀ d, d < s.cfg.n → s.avail + d < s.cfg.l →
    F.le (Arr.get s.env ((s.wpos + d) % s.cfg.l)) (F.ofInt ((s.cfg.n - 1 - d) * s.cfg.windowCap : Nat)) = true

/-- What the memories hold once the engine is prepared (10_state.md R55, R57, R60; 44_modifier.md R188;
46_overlap_add.md R219: the envelope is finite in every build whose window cannot make it overflow, log 19, and `OLA` is
never NaN). -/
structure State.Streaming (s : State) : Prop where
  maxblk : 1 ≤ s.maxblk.toNat
  mag : ∀ k, k ≤ s.cfg.h → Arr.get s.mag k = .nan ∨ (Arr.get s.mag k).isNonneg = true
  curmag : ∀ k, k ≤ s.cfg.h → (Arr.get s.curmag k).isFinite = true ∧ (Arr.get s.curmag k).isNonneg = true
  curif : ∀ k, k ≤ s.cfg.h → (Arr.get s.curif k).isFinite = true
  smag : ∀ k, k ≤ s.cfg.h → (Arr.get s.smag k).isNonneg = true
  env : ∀ c, c < s.cfg.l → F.le .zero (Arr.get s.env c) = true
  envelope : s.cfg.WindowBounded → s.EnvelopeBounded
  ola : ∀ c, c < s.cfg.l → Arr.get s.ola c ≠ .nan
  clear : ∀ j, s.avail + s.cfg.n ≤ j → j < s.cfg.l →
    Arr.get s.ola ((s.rpos + j) % s.cfg.l) = .zero ∧ Arr.get s.env ((s.rpos + j) % s.cfg.l) = .zero

/-- The invariants of 10_state.md R60 and 46_overlap_add.md R219 but for the phases, and the canonical form of every
memory. -/
structure State.Inv (s : State) : Prop where
  build : s.cfg.wf = true
  rwp : s.rwp < s.cfg.n
  hopcnt : s.hopcnt ≤ s.cfg.ha
  hsLow : 1 ≤ s.hs
  hsHigh : s.hs ≤ s.cfg.hsMax
  rpos : s.rpos < s.cfg.l
  wpos : s.wpos = (s.rpos + s.avail) % s.cfg.l
  avail : s.avail ≤ s.cfg.l
  preroll : s.preroll ≤ s.cfg.n
  prng : s.prng ≠ 0
  maxblk : s.maxblk.toNat ≤ s.cfg.maxBlkHw
  param : s.param.isUnit = true
  pub : s.pub = mappedOf s.cfg s.param
  act : s.act.InRange s.cfg
  memories : s.MemoriesWf
  streaming : s.lstate ≠ .cold → s.Streaming

/-- The phases and frequencies of a prepared engine (10_state.md R54, R60; 45_rotator.md R201). -/
structure State.PhasesWrapped (s : State) : Prop where
  synph : ∀ k, k ≤ s.cfg.h → (Arr.get s.synph k).isWrapped = true
  ph : ∀ k, k ≤ s.cfg.h → Arr.get s.ph k = .nan ∨ F.within (F.neg .pi) .pi (Arr.get s.ph k) = true
  lastph : ∀ k, k ≤ s.cfg.h → Arr.get s.lastph k = .nan ∨ F.within (F.neg .pi) .pi (Arr.get s.lastph k) = true
  tif : ∀ k, k ≤ s.cfg.h → Arr.get s.tif k = .nan ∨ (Arr.get s.tif k).isTrackedFreq = true
  curif : ∀ k, k ≤ s.cfg.h → (Arr.get s.curif k).isTrackedFreq = true
  sif : ∀ k, k ≤ s.cfg.h → (Arr.get s.sif k).isTrackedFreq = true

/-- `State.PhasesWrapped` where 10_state.md R60 asks for it: `LSTATE` ≠ 0. -/
def State.PhaseInv (s : State) : Prop := s.lstate ≠ .cold → s.PhasesWrapped

/-- `v` is a largest magnitude of the bins 0..h, or +0 if none is above +0 (44_modifier.md R180, step 3). -/
def IsPeak (h : Nat) (mags : Nat → F) (v : F) : Prop :=
  (v = .zero ∨ ∃ k, k ≤ h ∧ mags k = v) ∧ F.le .zero v = true ∧ ∀ k, k ≤ h → F.lt v (mags k) = false

end Machine

end Sys2Proof
end

