-- ==== Sys2Proof/Certificates/Slice0/Obligations.lean ====
section
/-! DEFINITION. The statements for the provers. Each docstring names the rules of spec/ it rests on. -/

open Sys2Proof Sys2Proof.Machine

/-! ### Encoding -/

/-- Words written out from 30_encoding.md R111, R114, R117 decode to the commands they stand for. -/
def Obligations.SampleWordsDecode : Prop :=
  decode 0x00000000 = .ok .nop ∧ decode 0x01200200 = .ok (.prepare 1 512) ∧ decode 0x02000000 = .ok .reset
    ∧ decode 0x03000001 = .ok (.process 1) ∧ decode 0x101FFFFF = .ok (.push 0x1FFFFF)
    ∧ decode 0x22830001 = .ok (.bfly true 3 1) ∧ decode 0x40000000 = .ok .modify ∧ decode 0x51000000 = .ok .herm
    ∧ decode 0x61000004 = .ok (.pop 4) ∧ decode 0x05000000 = .error .reservedOpcode
    ∧ decode 0x22F30001 = .error .nonZeroField ∧ decode 0x10200000 = .error .nonZeroField

/-- Every command with operands in their fields is read back from its word (30_encoding.md R111, R114, R117). -/
def Obligations.EncodedCommandDecodes : Prop :=
  ∀ i : Instr, i.wellFormed = true → decode (encode i) = .ok i

/-- A word that decodes is the one word of its command, whose operands fit their fields (30_encoding.md R111, R112). -/
def Obligations.DecodedWordReencodes : Prop :=
  ∀ (w : Word) (i : Instr), decode w = .ok i → i.wellFormed = true ∧ encode i = w

/-- Which words are illegal, and what writing one to `CMD` does (30_encoding.md R113, R115; 47_facade.md R220). -/
def Obligations.IllegalWordOnlyCounts : Prop :=
  ∀ (w : Word) (s : State),
    ((∃ e, decode w = .error e) ↔
      (w.toNat / 2 ^ 24 ∉ [0x00, 0x01, 0x02, 0x03, 0x04, 0x10, 0x11, 0x20, 0x21, 0x22, 0x23, 0x24, 0x25, 0x26, 0x30,
          0x31, 0x40, 0x50, 0x51, 0x60, 0x61]
        ∨ (w.toNat / 2 ^ 24 ∈ [0x03, 0x10, 0x61] ∧ w.toNat / 2 ^ 21 % 2 ^ 3 ≠ 0)
        ∨ (w.toNat / 2 ^ 24 = 0x22 ∧ w.toNat / 2 ^ 20 % 2 ^ 3 ≠ 0)
        ∨ (w.toNat / 2 ^ 24 ∈ [0x00, 0x02, 0x04, 0x11, 0x20, 0x21, 0x23, 0x24, 0x25, 0x26, 0x30, 0x31, 0x40, 0x50,
            0x51, 0x60] ∧ w.toNat % 2 ^ 24 ≠ 0)))
    ∧ ((∃ e, decode w = .error e) → access (commandWrite w) s = .next (refusedWith .illegal s))

/-! ### The machine as a whole -/

/-- A pending write of a command's word to `CMD` makes the step execute that command and take the access off the stream
(30_encoding.md R110; 20_memory.md R81, R86); `State.withFetchWord` places such a write, on the state it is given. The list
`pending` is the model's form of the stream of accesses (log 1). -/
def Obligations.StepRunsDecodedCommand : Prop :=
  ∀ s : State, s.cfg.wf = true →
    (∀ (w : Word) (i : Instr) (rest : List HostAccess), s.pending = commandWrite w :: rest → decode w = .ok i →
      step s = exec i { s with pending := rest })
    ∧ (∀ i : Instr, i.wellFormed = true → step (s.withFetchWord 32 (encode i).toNat) = exec i s)

/-- Nothing stops a build of the engine, and no step changes its configuration (60_exceptions.md R259; 00_scope.md R6); a
configuration that breaks a constraint of R6 is no build and is refused (R7; 93_implementation_defined.md U9; the
refusal is the model's choice among those R7 allows, log 2). -/
def Obligations.OnlyBrokenBuildStops : Prop :=
  ∀ s : State, (s.cfg.wf = true → ∃ t, step s = .next t ∧ t.cfg = s.cfg)
    ∧ (s.cfg.wf = false → step s = .refused .buildOutsideSpec)

/-- The state after reset meets the invariants (10_state.md R60, the spec's own inference, and R61). What the working
memories hold is the model's choice (log 3); in `Cold` the invariants ask only their canonical form. -/
def Obligations.ResetMeetsInvariants : Prop := State.reset.Inv ∧ State.reset.PhaseInv

/-- Every step keeps the invariants of 46_overlap_add.md R219 and of 10_state.md R60 but for R60's line on phases
(`StepKeepsPhasesWrapped`) and its line on `XI` after a transform (`FftfIsItsParts`, `ZimClearsEdgeBins`,
`HermBuildsMirroredSpectrum`), which the spec marks as its own inferences. R219's finite `ENV` is kept in every build
whose synthesis window cannot make it overflow; with larger entries R210's addition can overflow (log 19). Every
memory's canonical form is the model's (log 3, log 13). -/
def Obligations.StepKeepsInvariant : Prop :=
  ∀ s t : State, s.Inv → step s = .next t → t.Inv

/-- Every step keeps phases wrapped and frequencies bounded (10_state.md R54, R60; 45_rotator.md R201, the spec's own
inference). -/
def Obligations.StepKeepsPhasesWrapped : Prop :=
  ∀ s t : State, s.Inv → s.PhaseInv → step s = .next t → t.PhaseInv

/-- Hardware reset gives every register the value 10_state.md R61 states, and only what R61 leaves unspecified is left
out here. -/
def Obligations.HardwareResetValues : Prop :=
  ∀ s : State, ∃ t, access .hardwareReset s = .next t
    ∧ t.lstate = .cold ∧ t.variant = .stretch ∧ t.maxblk = 0 ∧ t.arg0 = 0 ∧ t.srate = 0 ∧ t.result = .ok
    ∧ t.cmderr = false ∧ t.cseq = 0 ∧ t.diagNi = 0 ∧ t.diagBbv = 0 ∧ t.diagPor = 0
    ∧ t.produced = 0 ∧ t.warmz = 0 ∧ t.framecnt = 0
    ∧ t.param = ⟨.half, .half, .zero, .zero, .zero, .one, .zero⟩
    ∧ t.pub = ⟨.one, .one, false, .zero, 0, s.cfg.n / 2, .zero⟩ ∧ t.act = t.pub
    ∧ t.rwp = 0 ∧ t.hopcnt = 0 ∧ t.hs = s.cfg.ha ∧ t.wpos = 0 ∧ t.rpos = 0 ∧ t.avail = 0
    ∧ t.preroll = s.cfg.n ∧ t.prng = s.cfg.seed ∧ t.cfg = s.cfg
    ∧ memRead t 0x001 = 0

/-- Every command ends, advances `CSEQ` by one, reports one result and remembers a refusal; no command touches what only
the host writes (47_facade.md R220, R221; 10_state.md R34, R35, R37, R42, R43; 60_exceptions.md R254). -/
def Obligations.EveryCommandEnds : Prop :=
  ∀ (i : Instr) (s : State), ∃ t, exec i s = .next t ∧ t.cseq = s.cseq + 1
    ∧ t.cmderr = (s.cmderr || decide (t.result ≠ .ok))
    ∧ t.arg0 = s.arg0 ∧ t.param = s.param ∧ t.pub = s.pub ∧ t.diagPor = s.diagPor
    ∧ t.cfg = s.cfg ∧ t.pending = s.pending ∧ t.rdata = s.rdata

/-- A refused command changes `RESULT`, `CMDERR` and `CSEQ` only, a failed `PREPARE` also `LSTATE`
(47_facade.md R220). -/
def Obligations.RefusedCommandOnlyCounts : Prop :=
  ∀ (i : Instr) (s t : State), exec i s = .next t → t.result ≠ .ok →
    (t = refusedWith t.result s ∧ (t.result = .notPrepared ∨ t.result = .badArg))
    ∨ (t = { refusedWith .prepFail s with lstate := .cold } ∧ ∃ v m, i = .prepare v m)

/-- In `Cold` every command but `NOP`, `PREPARE` and `RESET` is refused with `NOTPREPARED`, whatever its operands; in a
prepared engine an operand out of its range is refused with `BADARG` (30_encoding.md R113, R114; 60_exceptions.md
R258). -/
def Obligations.RefusalsFollowDecodeOrder : Prop :=
  ∀ s : State,
    (s.lstate = .cold → ∀ i, needsPrepared i = true → exec i s = .next (refusedWith .notPrepared s))
    ∧ (s.lstate ≠ .cold →
      (∀ n, s.maxblk.toNat < n → exec (.process n) s = .next (refusedWith .badArg s))
      ∧ (∀ i, s.maxblk.toNat ≤ i → exec (.push i) s = .next (refusedWith .badArg s))
      ∧ (∀ i, s.maxblk.toNat ≤ i → exec (.pop i) s = .next (refusedWith .badArg s))
      ∧ (∀ inv stage q, stage = 0 ∨ s.cfg.log2n < stage ∨ s.cfg.h ≤ q →
          exec (.bfly inv stage q) s = .next (refusedWith .badArg s)))

/-- The lifecycle table is complete: what each access may do to `LSTATE` (47_facade.md R228; 46_overlap_add.md R217). -/
def Obligations.LifecycleChangesAreListed : Prop :=
  ∀ (a : HostAccess) (s t : State), access a s = .next t → t.lstate ≠ s.lstate →
    a = .hardwareReset ∧ t.lstate = .cold
    ∨ ∃ w i, (a = .write 0x000 w ∨ a = .busWrite 0x000 4 w) ∧ decode w = .ok i ∧ (
        (∃ v m, i = .prepare v m ∧ (t.lstate = .warming ∧ t.result = .ok ∨ t.lstate = .cold ∧ t.result = .prepFail))
        ∨ i = .reset ∧ t.lstate = .cold
        ∨ s.lstate = .warming ∧ t.lstate = .steady ∧ s.cfg.lat ≤ t.produced.toNat
            ∧ (i = .olaw ∨ i = .frame ∨ ∃ n, i = .process n))

/-- Only `POP` and `PROCESS` write the sample buffer; every byte of it survives every other command
(46_overlap_add.md R213; 47_facade.md R222, R227). -/
def Obligations.OtherCommandsKeepBuffer : Prop :=
  ∀ (i : Instr) (s t : State), (∀ k, i ≠ .pop k) → (∀ n, i ≠ .process n) → exec i s = .next t →
    ∀ a, Memory.readByte t.buf a = Memory.readByte s.buf a

/-- Guard counters and `CMDERR` never go down but by hardware reset, and one `FRAME` counts at most one event at
`MODIFY` and at most one at `OLAW` (10_state.md R36, R39; 60_exceptions.md R256, the spec's own inference). -/
def Obligations.GuardCountersOnlyGrow : Prop :=
  ∀ s t : State,
    (∀ a : HostAccess, a ≠ .hardwareReset → access a s = .next t →
      s.diagNi.toNat ≤ t.diagNi.toNat ∧ s.diagBbv.toNat ≤ t.diagBbv.toNat ∧ s.diagPor.toNat ≤ t.diagPor.toNat
        ∧ (s.cmderr = true → t.cmderr = true))
    ∧ (exec .frame s = .next t →
      ∃ ni bbv, t.diagNi = satAdd s.diagNi ni ∧ t.diagBbv = satAdd s.diagBbv bbv ∧ bbv ≤ 1 ∧ ni + bbv ≤ 2)

/-! ### Lifecycle commands -/

/-- `NOP` (47_facade.md R223), in every lifecycle state. -/
def Obligations.NopOnlyCounts : Prop :=
  ∀ s : State, exec .nop s = .next { s with result := .ok, cseq := s.cseq + 1 }

/-- A `PREPARE` with arguments in range: state cleared, operands latched, `ACT` copied, `Warming`;
a second one with the same arguments leaves the same state but for `CSEQ` (47_facade.md R224, R227; 10_state.md R61). -/
def Obligations.PrepareStartsWarming : Prop :=
  ∀ (s : State) (v : Nat) (variant : Variant) (m : Nat), s.cfg.wf = true → variant.code = v → 1 ≤ m →
    m ≤ s.cfg.maxBlkHw → s.arg0 ≠ 0 →
    ∃ t, exec (.prepare v m) s = .next t ∧ t.maxblk.toNat = m
      ∧ t = { s with
          lstate := .warming, variant := variant, maxblk := t.maxblk, srate := s.arg0, act := s.pub
          ring := [], frame := [], xr := [], xi := [], mag := [], ph := [], tif := [], lastph := [], synph := []
          curmag := [], curif := [], smag := [], sif := [], phi := [], y := [], ola := [], env := []
          rwp := 0, hopcnt := 0, hs := s.cfg.ha, wpos := 0, rpos := 0, avail := 0, preroll := s.cfg.n
          prng := s.cfg.seed, produced := 0, warmz := 0, framecnt := 0
          result := .ok, cseq := s.cseq + 1 }
      ∧ exec (.prepare v m) t = .next { t with cseq := t.cseq + 1 }

/-- A `PREPARE` that cannot be served leaves `Cold` and reports `PREPFAIL` (47_facade.md R224; 60_exceptions.md R258). -/
def Obligations.UnservablePrepareFails : Prop :=
  ∀ (s : State) (v m : Nat), 4 < v ∨ m = 0 ∨ s.cfg.maxBlkHw < m ∨ s.arg0 = 0 →
    exec (.prepare v m) s = .next { refusedWith .prepFail s with lstate := .cold }

/-- `RESET` (47_facade.md R225, R227): state cleared, `Cold`, everything else kept. -/
def Obligations.ResetClearsToCold : Prop :=
  ∀ s : State, exec .reset s = .next { s with
    lstate := .cold
    ring := [], frame := [], xr := [], xi := [], mag := [], ph := [], tif := [], lastph := [], synph := []
    curmag := [], curif := [], smag := [], sif := [], phi := [], y := [], ola := [], env := []
    rwp := 0, hopcnt := 0, hs := s.cfg.ha, wpos := 0, rpos := 0, avail := 0, preroll := s.cfg.n
    prng := s.cfg.seed, produced := 0, warmz := 0, framecnt := 0
    result := .ok, cseq := s.cseq + 1 }

/-! ### Frame buffer -/

/-- `PUSH i` (41_frame_buffer.md R140). A `BUF[i]` nobody has written is a free value (log 4), which is then counted. -/
def Obligations.PushStoresSample : Prop :=
  ∀ (s : State) (i : Nat), s.lstate ≠ .cold → i < s.maxblk.toNat →
    ∃ t, exec (.push i) s = .next t
      ∧ Arr.get t.ring s.rwp = F.ofBits (s.bufWord i)
      ∧ (∀ k, k ≠ s.rwp → Arr.get t.ring k = Arr.get s.ring k)
      ∧ t.rwp = (s.rwp + 1) % s.cfg.n
      ∧ t.hopcnt = (if s.hopcnt = s.cfg.ha then 1 else s.hopcnt + 1)
      ∧ t.draws = (if s.bufWritten i then s.draws else s.draws + 1)
      ∧ t = { s with
          ring := t.ring, rwp := t.rwp, hopcnt := t.hopcnt, draws := t.draws, result := .ok, cseq := s.cseq + 1 }

/-- The frame-ready law (41_frame_buffer.md R142, the spec's own inference from R140): counting pushes since the hop counter was clear, `FRDY` is 1 after
push number m exactly when m > 0 and HA divides m. -/
def Obligations.FrameReadyEveryHop : Prop :=
  ∀ (s t : State) (is : List Nat), s.lstate ≠ .cold → s.hopcnt = 0 → 1 ≤ s.cfg.ha →
    (∀ i ∈ is, i < s.maxblk.toNat) → execAll (is.map .push) s = some t →
    frameReady t = decide (0 < is.length ∧ is.length % s.cfg.ha = 0)

/-- `EXTRACT` (41_frame_buffer.md R141): the last N samples, oldest first, windowed. -/
def Obligations.ExtractWindowsRing : Prop :=
  ∀ s : State, s.lstate ≠ .cold → ∃ t, exec .extract s = .next t
    ∧ (∀ j, j < s.cfg.n →
        Arr.get t.frame j = F.mul (Arr.get s.ring ((s.rwp + j) % s.cfg.n)) (s.cfg.waAt j))
    ∧ (∀ j, s.cfg.n ≤ j → Arr.get t.frame j = Arr.get s.frame j)
    ∧ t = { s with frame := t.frame, result := .ok, cseq := s.cseq + 1 }

/-! ### Transform -/

/-- `LOADX` (42_fft.md R150). -/
def Obligations.LoadxReversesIndices : Prop :=
  ∀ s : State, s.cfg.wf = true → s.lstate ≠ .cold → ∃ t, exec .loadx s = .next t
    ∧ (∀ n, n < s.cfg.n → Arr.get t.xr (bitrev s.cfg.log2n n) = Arr.get s.frame n)
    ∧ (∀ k, k < s.cfg.n → Arr.get t.xi k = .zero)
    ∧ (∀ k, s.cfg.n ≤ k → Arr.get t.xr k = Arr.get s.xr k ∧ Arr.get t.xi k = Arr.get s.xi k)
    ∧ t = { s with xr := t.xr, xi := t.xi, result := .ok, cseq := s.cseq + 1 }

/-- `BITREV` (42_fft.md R151): every element moves to its reversed index, and twice restores the workspace (the spec's
own inference, R151). -/
def Obligations.BitrevPermutesWorkspace : Prop :=
  ∀ s : State, s.cfg.wf = true → s.lstate ≠ .cold → ∃ t u, exec .bitrev s = .next t ∧ exec .bitrev t = .next u
    ∧ (∀ n, n < s.cfg.n → Arr.get t.xr n = Arr.get s.xr (bitrev s.cfg.log2n n)
        ∧ Arr.get t.xi n = Arr.get s.xi (bitrev s.cfg.log2n n))
    ∧ (∀ k, s.cfg.n ≤ k → Arr.get t.xr k = Arr.get s.xr k ∧ Arr.get t.xi k = Arr.get s.xi k)
    ∧ (∀ k, Arr.get u.xr k = Arr.get s.xr k ∧ Arr.get u.xi k = Arr.get s.xi k)
    ∧ t = { s with xr := t.xr, xi := t.xi, result := .ok, cseq := s.cseq + 1 }

/-- `BFLY inv, stage, q` (42_fft.md R152), for the butterfly at position j of group g. -/
def Obligations.BflyCombinesPair : Prop :=
  ∀ (s : State) (inv : Bool) (stage g j : Nat), s.lstate ≠ .cold → 1 ≤ stage → stage ≤ s.cfg.log2n →
    j < 2 ^ (stage - 1) → g * 2 ^ (stage - 1) + j < s.cfg.h →
    let ia := g * 2 ^ stage + j
    let ib := ia + 2 ^ (stage - 1)
    let wr := s.cfg.twc (j * (s.cfg.n / 2 ^ stage))
    let wi := if inv then s.cfg.tws (j * (s.cfg.n / 2 ^ stage)) else F.neg (s.cfg.tws (j * (s.cfg.n / 2 ^ stage)))
    let tr := F.sub (F.mul wr (Arr.get s.xr ib)) (F.mul wi (Arr.get s.xi ib))
    let ti := F.add (F.mul wr (Arr.get s.xi ib)) (F.mul wi (Arr.get s.xr ib))
    ∃ t, exec (.bfly inv stage (g * 2 ^ (stage - 1) + j)) s = .next t
      ∧ Arr.get t.xr ia = F.add (Arr.get s.xr ia) tr ∧ Arr.get t.xi ia = F.add (Arr.get s.xi ia) ti
      ∧ Arr.get t.xr ib = F.sub (Arr.get s.xr ia) tr ∧ Arr.get t.xi ib = F.sub (Arr.get s.xi ia) ti
      ∧ (∀ k, k ≠ ia → k ≠ ib → Arr.get t.xr k = Arr.get s.xr k ∧ Arr.get t.xi k = Arr.get s.xi k)
      ∧ t = { s with xr := t.xr, xi := t.xi, result := .ok, cseq := s.cseq + 1 }

/-- The butterflies of one stage touch disjoint pairs, so their order does not matter (20_memory.md R94, the spec's
own inference from R152). -/
def Obligations.StageOrderDoesNotMatter : Prop :=
  ∀ (s t u t' u' : State) (inv : Bool) (stage q q' : Nat),
    exec (.bfly inv stage q) s = .next t → exec (.bfly inv stage q') t = .next u →
    exec (.bfly inv stage q') s = .next t' → exec (.bfly inv stage q) t' = .next u' →
    u.result = .ok → u'.result = .ok →
    ∀ k, Arr.get u.xr k = Arr.get u'.xr k ∧ Arr.get u.xi k = Arr.get u'.xi k

/-- `ZIM` (42_fft.md R153). -/
def Obligations.ZimClearsEdgeBins : Prop :=
  ∀ s : State, s.lstate ≠ .cold → ∃ t, exec .zim s = .next t
    ∧ Arr.get t.xi 0 = .zero ∧ Arr.get t.xi s.cfg.h = .zero
    ∧ (∀ k, k ≠ 0 → k ≠ s.cfg.h → Arr.get t.xi k = Arr.get s.xi k)
    ∧ t = { s with xi := t.xi, result := .ok, cseq := s.cseq + 1 }

/-- `SCALEY` (42_fft.md R155). -/
def Obligations.ScaleyDividesByN : Prop :=
  ∀ s : State, s.lstate ≠ .cold → ∃ t, exec .scaley s = .next t
    ∧ (∀ j, j < s.cfg.n → Arr.get t.y j = F.mul (Arr.get s.xr j) s.cfg.invN)
    ∧ (∀ j, s.cfg.n ≤ j → Arr.get t.y j = Arr.get s.y j)
    ∧ t = { s with y := t.y, result := .ok, cseq := s.cseq + 1 }

/-- `FFTF` is `LOADX`, every butterfly of every stage in order, and `ZIM` (42_fft.md R154; 00_scope.md R23). -/
def Obligations.FftfIsItsParts : Prop :=
  ∀ s : State, s.lstate ≠ .cold → ∃ u, execAll (forwardCommands s.cfg) s = some u
    ∧ exec .fftf s = .next { u with cseq := s.cseq + 1 }
    ∧ Arr.get u.xi 0 = .zero ∧ Arr.get u.xi s.cfg.h = .zero
    ∧ u = { s with xr := u.xr, xi := u.xi, result := .ok, cseq := u.cseq }

/-- `FFTI` is `BITREV`, every butterfly of every stage in order, and `SCALEY` (42_fft.md R156; 00_scope.md R23). -/
def Obligations.FftiIsItsParts : Prop :=
  ∀ s : State, s.lstate ≠ .cold → ∃ u, execAll (inverseCommands s.cfg) s = some u
    ∧ exec .ffti s = .next { u with cseq := s.cseq + 1 }
    ∧ (∀ j, j < s.cfg.n → Arr.get u.y j = F.mul (Arr.get u.xr j) s.cfg.invN)
    ∧ u = { s with xr := u.xr, xi := u.xi, y := u.y, result := .ok, cseq := u.cseq }

/-! ### Polar conversion and tracking -/

/-- `POLAR` (43_phase_tracker.md R170). -/
def Obligations.PolarConvertsBins : Prop :=
  ∀ s : State, s.lstate ≠ .cold → ∃ t, exec .polar s = .next t
    ∧ (∀ k, k ≤ s.cfg.h →
        Arr.get t.mag k = F.sqrt (F.add (F.mul (Arr.get s.xr k) (Arr.get s.xr k)) (F.mul (Arr.get s.xi k) (Arr.get s.xi k)))
        ∧ Arr.get t.ph k = s.cfg.num.fns.fatan2 (Arr.get s.xi k) (Arr.get s.xr k)
        ∧ (Arr.get t.mag k = .nan ∨ F.le .zero (Arr.get t.mag k) = true)
        ∧ (Arr.get s.xr k ≠ .nan → Arr.get s.xi k ≠ .nan → F.within (F.neg .pi) .pi (Arr.get t.ph k) = true))
    ∧ (∀ k, s.cfg.h < k → Arr.get t.mag k = Arr.get s.mag k ∧ Arr.get t.ph k = Arr.get s.ph k)
    ∧ t = { s with mag := t.mag, ph := t.ph, result := .ok, cseq := s.cseq + 1 }

/-- `TRACK` (43_phase_tracker.md R171 to R174). -/
def Obligations.TrackEstimatesFrequencies : Prop :=
  ∀ s : State, s.lstate ≠ .cold → ∃ t, exec .track s = .next t
    ∧ Arr.get t.tif 0 = .zero
    ∧ (∀ k, 1 ≤ k → k ≤ s.cfg.h →
        let r := F.wrap (F.sub (F.sub (Arr.get s.ph k) (Arr.get s.lastph k)) (s.cfg.expAdv k))
        let f := F.add (s.cfg.omega k) (F.div r (F.ofInt s.cfg.ha))
        let lim := F.mul .two (s.cfg.omega k)
        Arr.get t.tif k = (if F.lt lim f then lim else f) ∧ F.lt lim (Arr.get t.tif k) = false)
    ∧ (∀ k, k ≤ s.cfg.h → Arr.get t.lastph k = Arr.get s.ph k)
    ∧ (∀ k, s.cfg.h < k → Arr.get t.tif k = Arr.get s.tif k ∧ Arr.get t.lastph k = Arr.get s.lastph k)
    ∧ t = { s with tif := t.tif, lastph := t.lastph, result := .ok, cseq := s.cseq + 1 }

/-! ### Modifier -/

/-- `MODIFY` accepts a finite frame when not frozen, ignores any frame while frozen, and else rejects it and counts one
event; in all three cases the synthesis side is rebuilt (44_modifier.md R180, R181, R184). -/
def Obligations.ModifyTakesOrHoldsFrame : Prop :=
  ∀ s : State, s.lstate ≠ .cold →
    let valid := (Arr.get s.ph 0).isFinite = true
      ∧ ∀ k, k ≤ s.cfg.h → (Arr.get s.mag k).isFinite = true ∧ (Arr.get s.tif k).isFinite = true
    let iced := s.variant = .freeze ∧ s.act.freeze = true
    ∃ t, exec .modify s = .next t
      ∧ (¬iced → valid →
          (∀ k, k ≤ s.cfg.h → Arr.get t.curmag k = Arr.get s.mag k ∧ Arr.get t.curif k = Arr.get s.tif k)
          ∧ (∀ k, s.cfg.h < k → Arr.get t.curmag k = Arr.get s.curmag k ∧ Arr.get t.curif k = Arr.get s.curif k)
          ∧ Arr.get t.synph 0 = F.wrap (Arr.get s.ph 0)
          ∧ (∀ k, k ≠ 0 → Arr.get t.synph k = Arr.get s.synph k)
          ∧ t.diagNi = s.diagNi)
      ∧ (iced → t.curmag = s.curmag ∧ t.curif = s.curif ∧ t.synph = s.synph ∧ t.diagNi = s.diagNi)
      ∧ (¬iced → ¬valid →
          t.curmag = s.curmag ∧ t.curif = s.curif ∧ t.synph = s.synph ∧ t.diagNi = satAdd s.diagNi 1)
      ∧ t = { s with
          curmag := t.curmag, curif := t.curif, synph := t.synph, diagNi := t.diagNi
          smag := t.smag, sif := t.sif, hs := t.hs, result := .ok, cseq := s.cseq + 1 }

/-- Outside variant Gate, synthesis bin b gets the sum of the magnitudes, in ascending order, of the analysis bins that
map to it, and the frequency of the last of them; bins that receive nothing are +0 and `SIF[0]` is +0
(44_modifier.md R180, R182). -/
def Obligations.ModifyRemapsBins : Prop :=
  ∀ s : State, s.lstate ≠ .cold → s.variant ≠ .gate →
    ∃ t, exec .modify s = .next t ∧ ∀ b, b ≤ s.cfg.h →
      let ratio := if s.variant = .pitchShift then s.act.pitch else .one
      let sources := (List.range (s.cfg.h + 1)).filter fun (k : Nat) =>
        decide (F.rhaz (F.mul (F.ofInt (k : Int)) ratio) = (b : Int))
      Arr.get t.smag b = sources.foldl (fun m k => F.add m (Arr.get t.curmag k)) .zero
      ∧ Arr.get t.sif b = (if b = 0 then .zero else (sources.getLast?.map (Arr.get t.curif)).getD .zero)

/-- Outside PitchShift and Gate, `MODIFY` copies the held spectrum, `SIF[0]` forced to +0 (44_modifier.md R182, R185). -/
def Obligations.ModifyPassesSpectrumThrough : Prop :=
  ∀ s : State, s.Inv → s.lstate ≠ .cold → s.variant ≠ .gate → s.variant ≠ .pitchShift →
    ∃ t, exec .modify s = .next t ∧ Arr.get t.sif 0 = .zero
      ∧ ∀ k, k ≤ s.cfg.h → Arr.get t.smag k = Arr.get t.curmag k ∧ (k ≠ 0 → Arr.get t.sif k = Arr.get t.curif k)

/-- In variant Gate, bins GLO..GHI below GTHR times the peak are zeroed and nothing else is (44_modifier.md R183). -/
def Obligations.ModifyGatesQuietBins : Prop :=
  ∀ s : State, s.Inv → s.lstate ≠ .cold → s.variant = .gate →
    ∃ t p, exec .modify s = .next t ∧ IsPeak s.cfg.h (Arr.get t.curmag) p ∧ Arr.get t.sif 0 = .zero
      ∧ ∀ k, k ≤ s.cfg.h →
        Arr.get t.smag k = (if s.act.glo ≤ k ∧ k ≤ s.act.ghi ∧ F.lt (Arr.get t.curmag k) (F.mul s.act.gthr p) = true
          then .zero else Arr.get t.curmag k)
        ∧ (k ≠ 0 → Arr.get t.sif k = Arr.get t.curif k)

/-- The synthesis hop after `MODIFY` (44_modifier.md R186; 10_state.md R47). -/
def Obligations.ModifySetsHop : Prop :=
  ∀ s : State, s.cfg.wf = true → s.lstate ≠ .cold →
    ∃ t, exec .modify s = .next t ∧ 1 ≤ t.hs ∧ t.hs ≤ s.cfg.ha * s.cfg.maxStretch
      ∧ (s.variant = .stretch →
          (t.hs : Int) = min (max (F.rhaz (F.mul (F.ofInt s.cfg.ha) s.act.stretch)) 1) (s.cfg.ha * s.cfg.maxStretch : Nat))
      ∧ (s.variant ≠ .stretch → t.hs = s.cfg.ha)

/-! ### Rotator -/

/-- `ACCUM` (45_rotator.md R200). -/
def Obligations.AccumAdvancesPhases : Prop :=
  ∀ s : State, s.lstate ≠ .cold → ∃ t, exec .accum s = .next t
    ∧ (∀ k, 1 ≤ k → k ≤ s.cfg.h →
        Arr.get t.synph k = F.wrap (F.add (Arr.get s.synph k)
          (F.mul (F.mul (Arr.get s.sif k) (F.ofInt s.hs)) (if s.variant = .pitchShift then s.act.pitch else .one))))
    ∧ (∀ k, k = 0 ∨ s.cfg.h < k → Arr.get t.synph k = Arr.get s.synph k)
    ∧ t = { s with synph := t.synph, result := .ok, cseq := s.cseq + 1 }

/-- `HERM` (45_rotator.md R203, R204): each bin rotated by its phase, smeared in variant Smear with one draw a bin,
imaginary parts of bins 0 and H forced to +0, the upper half mirrored. -/
def Obligations.HermBuildsMirroredSpectrum : Prop :=
  ∀ s : State, s.cfg.wf = true → s.lstate ≠ .cold → ∃ t, exec .herm s = .next t
    ∧ (∀ k, k ≤ s.cfg.h →
        Arr.get t.phi k = (if s.variant = .smear ∧ 1 ≤ k ∧ k < s.cfg.h
          then F.wrap (F.add (Arr.get s.synph k)
            (F.mul (F.mul s.act.smear .pi) (smearUnit (Nat.iterate xorshift k s.prng))))
          else Arr.get s.synph k))
    ∧ t.prng = (if s.variant = .smear then Nat.iterate xorshift (s.cfg.h - 1) s.prng else s.prng)
    ∧ (∀ k, k ≤ s.cfg.h → Arr.get t.xr k = F.mul (Arr.get s.smag k) (s.cfg.num.fns.fcos (Arr.get t.phi k)))
    ∧ (∀ k, 1 ≤ k → k < s.cfg.h →
        Arr.get t.xi k = F.mul (Arr.get s.smag k) (s.cfg.num.fns.fsin (Arr.get t.phi k))
        ∧ Arr.get t.xr (s.cfg.n - k) = Arr.get t.xr k ∧ Arr.get t.xi (s.cfg.n - k) = F.neg (Arr.get t.xi k))
    ∧ Arr.get t.xi 0 = .zero ∧ Arr.get t.xi s.cfg.h = .zero
    ∧ (∀ k, s.cfg.h < k → Arr.get t.phi k = Arr.get s.phi k)
    ∧ (∀ k, s.cfg.n ≤ k → Arr.get t.xr k = Arr.get s.xr k ∧ Arr.get t.xi k = Arr.get s.xi k)
    ∧ t = { s with phi := t.phi, prng := t.prng, xr := t.xr, xi := t.xi, result := .ok, cseq := s.cseq + 1 }

/-- In a reachable state, `HERM` makes every element finite and at most its bin's magnitude, if every magnitude is
finite (45_rotator.md R205, the spec's own inference). -/
def Obligations.HermStaysWithinMagnitude : Prop :=
  ∀ s : State, s.Inv → s.PhaseInv → s.lstate ≠ .cold →
    (∀ k, k ≤ s.cfg.h → (Arr.get s.smag k).isFinite = true) →
    ∃ t, exec .herm s = .next t ∧ ∀ k, k < s.cfg.n →
      let b := if k ≤ s.cfg.h then k else s.cfg.n - k
      (Arr.get t.xr k).isFinite = true ∧ (Arr.get t.xi k).isFinite = true
      ∧ F.le (F.abs (Arr.get t.xr k)) (Arr.get s.smag b) = true
      ∧ F.le (F.abs (Arr.get t.xi k)) (Arr.get s.smag b) = true

/-- The generator never reaches 0 (general knowledge, as R204 marks it), and a draw lies in [-1, 1) (45_rotator.md R204;
10_state.md R49). -/
def Obligations.SmearDrawInRange : Prop :=
  ∀ x : Word, (x ≠ 0 → xorshift x ≠ 0)
    ∧ F.le (F.neg .one) (smearUnit x) = true ∧ F.lt (smearUnit x) .one = true

/-! ### Overlap-add -/

/-- `OLAW` drops a frame that would wrap onto unread cells (46_overlap_add.md R210, R211). -/
def Obligations.OlawDropsFrameThatDoesNotFit : Prop :=
  ∀ s : State, s.lstate ≠ .cold → s.cfg.l < s.avail + max s.cfg.n s.hs →
    exec .olaw s = .next { s with diagBbv := satAdd s.diagBbv 1, result := .ok, cseq := s.cseq + 1 }

/-- `OLAW` adds a finite windowed frame and its window to N cells, advances by HS, and ends warm-up once `PRODUCED`
reaches `LAT` (46_overlap_add.md R210, R217). -/
def Obligations.OlawAddsFrame : Prop :=
  ∀ s : State, s.cfg.wf = true → s.lstate ≠ .cold → s.avail + max s.cfg.n s.hs ≤ s.cfg.l →
    (∀ j, j < s.cfg.n → (F.mul (Arr.get s.y j) (s.cfg.wsAt j)).isFinite = true) →
    ∃ t, exec .olaw s = .next t
      ∧ (∀ j, j < s.cfg.n →
          Arr.get t.ola ((s.wpos + j) % s.cfg.l)
            = F.add (Arr.get s.ola ((s.wpos + j) % s.cfg.l)) (F.mul (Arr.get s.y j) (s.cfg.wsAt j))
          ∧ Arr.get t.env ((s.wpos + j) % s.cfg.l)
            = F.add (Arr.get s.env ((s.wpos + j) % s.cfg.l)) (s.cfg.wsAt j))
      ∧ (∀ c, (∀ j, j < s.cfg.n → c ≠ (s.wpos + j) % s.cfg.l) →
          Arr.get t.ola c = Arr.get s.ola c ∧ Arr.get t.env c = Arr.get s.env c)
      ∧ t.produced.toNat = min (s.produced.toNat + s.hs) (2 ^ 32 - 1)
      ∧ t.lstate = (if s.lstate = .warming ∧ 2 * s.cfg.n - s.cfg.ha ≤ t.produced.toNat then .steady else s.lstate)
      ∧ t = { s with
          ola := t.ola, env := t.env, wpos := (s.wpos + s.hs) % s.cfg.l, avail := s.avail + s.hs
          produced := t.produced, lstate := t.lstate, result := .ok, cseq := s.cseq + 1 }

/-- `OLAW` adds nothing of a frame with a windowed sample that is not finite, counts it once, and still advances
(46_overlap_add.md R212, R217). -/
def Obligations.OlawSkipsNonFiniteFrame : Prop :=
  ∀ (s : State) (j : Nat), s.cfg.wf = true → s.lstate ≠ .cold → s.avail + max s.cfg.n s.hs ≤ s.cfg.l →
    j < s.cfg.n → (F.mul (Arr.get s.y j) (s.cfg.wsAt j)).isFinite = false →
    ∃ t, exec .olaw s = .next t
      ∧ t.produced.toNat = min (s.produced.toNat + s.hs) (2 ^ 32 - 1)
      ∧ t.lstate = (if s.lstate = .warming ∧ 2 * s.cfg.n - s.cfg.ha ≤ t.produced.toNat then .steady else s.lstate)
      ∧ t = { s with
          diagNi := satAdd s.diagNi 1, wpos := (s.wpos + s.hs) % s.cfg.l, avail := s.avail + s.hs
          produced := t.produced, lstate := t.lstate, result := .ok, cseq := s.cseq + 1 }

/-- `POP i` in pre-roll or with no cell available stores +0, counts it in `WARMZ` and consumes nothing; every byte
outside `BUF[i]` stays (46_overlap_add.md R213, R214). -/
def Obligations.PopFillsWithZero : Prop :=
  ∀ (s : State) (i : Nat), s.lstate ≠ .cold → i < s.maxblk.toNat → 0 < s.preroll ∨ s.avail = 0 →
    ∃ t, exec (.pop i) s = .next t ∧ t.bufWord i = 0
      ∧ (∀ a, a < bufByteAddr i 0 ∨ bufByteAddr i 3 < a → Memory.readByte t.buf a = Memory.readByte s.buf a)
      ∧ t = { s with
          buf := t.buf, preroll := s.preroll - 1, warmz := satAdd s.warmz 1, result := .ok, cseq := s.cseq + 1 }

/-- `POP i` of an available cell: normalized by its envelope where that exceeds `EPS_ENV`, replaced by +0 and counted
where not finite, the cell cleared and passed; every byte outside `BUF[i]` stays (46_overlap_add.md R213, R214). -/
def Obligations.PopConsumesCell : Prop :=
  ∀ (s : State) (i : Nat), s.lstate ≠ .cold → i < s.maxblk.toNat → s.preroll = 0 → 0 < s.avail →
    let a := Arr.get s.ola s.rpos
    let e := Arr.get s.env s.rpos
    let v := if F.lt s.cfg.epsEnv e then F.mul s.cfg.kola (F.div a e) else a
    ∃ t, exec (.pop i) s = .next t
      ∧ t.bufWord i = (if v.isFinite then v.toBits else 0)
      ∧ t.diagNi = (if v.isFinite then s.diagNi else satAdd s.diagNi 1)
      ∧ Arr.get t.ola s.rpos = .zero ∧ Arr.get t.env s.rpos = .zero
      ∧ (∀ c, c ≠ s.rpos → Arr.get t.ola c = Arr.get s.ola c ∧ Arr.get t.env c = Arr.get s.env c)
      ∧ (∀ b, b < bufByteAddr i 0 ∨ bufByteAddr i 3 < b → Memory.readByte t.buf b = Memory.readByte s.buf b)
      ∧ t = { s with
          buf := t.buf, ola := t.ola, env := t.env, rpos := (s.rpos + 1) % s.cfg.l, avail := s.avail - 1
          diagNi := t.diagNi, result := .ok, cseq := s.cseq + 1 }

/-- The output law (60_exceptions.md R259, the spec's own inference from R213): whatever went in, an element of `BUF` that `POP` or `PROCESS` wrote holds a
finite value. -/
def Obligations.OutputIsFinite : Prop :=
  ∀ s t : State,
    (∀ i, exec (.pop i) s = .next t → t.result = .ok → (F.ofBits (t.bufWord i)).isFinite = true)
    ∧ (∀ n, exec (.process n) s = .next t → t.result = .ok →
        ∀ i, i < n → (F.ofBits (t.bufWord i)).isFinite = true)

/-! ### Block loop -/

/-- `FRAME` is its nine parts in order, and a count (47_facade.md R226; 00_scope.md R23). -/
def Obligations.FrameIsItsParts : Prop :=
  ∀ s : State, s.lstate ≠ .cold → ∃ u, execAll frameCommands s = some u
    ∧ exec .frame s = .next { u with framecnt := s.framecnt + 1, cseq := s.cseq + 1 }

/-- `PROCESS n` latches `PUB`, then for each sample pushes, runs a frame if the hop is complete, and pops; it leaves
`BUF[n..]` (47_facade.md R222). -/
def Obligations.ProcessLoopsOverSamples : Prop :=
  ∀ s : State, s.lstate ≠ .cold →
    exec (.process 0) s = .next { s with act := s.pub, result := .ok, cseq := s.cseq + 1 }
    ∧ ∀ n, n < s.maxblk.toNat → ∃ u v w x,
        exec (.process n) s = .next u ∧ exec (.push n) u = .next v
        ∧ (if v.hopcnt = s.cfg.ha then exec .frame v = .next w else w = v)
        ∧ exec (.pop n) w = .next x ∧ exec (.process (n + 1)) s = .next { x with cseq := s.cseq + 1 }
        ∧ x.result = .ok ∧ x.act = s.pub
        ∧ ∀ a, bufByteAddr (n + 1) 0 ≤ a → Memory.readByte x.buf a = Memory.readByte s.buf a

/-- With the synthesis hop equal to the analysis hop (any variant but Stretch, or Stretch with a published ratio of 1.0,
as after hardware reset), a run of `PROCESS` commands after `PREPARE` drops no frame, zero-fills exactly the pre-roll,
and runs one frame a hop (46_overlap_add.md R211, R215, R218; 47_facade.md R222). R215 and R218 are the spec's own
inferences. -/
def Obligations.UnitHopStreamDropsNothing : Prop :=
  ∀ (s p t : State) (v m : Nat) (ns : List Nat), s.cfg.wf = true → v ≠ 0 ∨ s.pub.stretch = .one →
    exec (.prepare v m) s = .next p → p.result = .ok → (∀ n ∈ ns, n ≤ m) → execAll (ns.map .process) p = some t →
    t.diagBbv = s.diagBbv ∧ t.warmz.toNat = min ns.sum s.cfg.n
      ∧ t.framecnt = BitVec.ofNat 32 (ns.sum / s.cfg.ha)

/-- Two runs from a successful `PREPARE` with the same arguments and the same `PUB`, given the same accesses, leave the
same `BUF` (70_reset_and_hazards.md R284, the spec's own inference), whatever the working memories, counters and lifecycle states were before. -/
def Obligations.PreparedRunsAgree : Prop :=
  ∀ (s s' p p' t t' : State) (v m : Nat) (as : List HostAccess),
    s.cfg = s'.cfg → s.pub = s'.pub → s.arg0 = s'.arg0 → s.buf = s'.buf → s.draws = s'.draws →
    exec (.prepare v m) s = .next p → exec (.prepare v m) s' = .next p' → p.result = .ok →
    performAll as p = some t → performAll as p' = some t' → t.buf = t'.buf ∧ t.avail = t'.avail

/-! ### Host interface -/

/-- What a host reads at each address, `STATUS` field by field (10_state.md R36, R38, R41, R44, R62; 20_memory.md
R81). Reading HS, AVAIL and the CFG registers modulo 2^32 is the model's choice (log 16), and an element of `BUF` nobody
has written reads as a free value (log 4). -/
def Obligations.RegistersReadAsMapped : Prop :=
  ∀ s : State,
    (memRead s 0x001).toNat % 4 = s.lstate.code ∧ (memRead s 0x001).getLsbD 2 = false
    ∧ (memRead s 0x001).getLsbD 3 = decide (s.lstate ≠ .cold ∧ s.hopcnt = s.cfg.ha)
    ∧ (memRead s 0x001).getLsbD 4 = s.cmderr ∧ (memRead s 0x001).toNat / 2 ^ 5 % 8 = s.variant.code
    ∧ (memRead s 0x001).getLsbD 8 = decide (s.variant = .freeze ∧ s.act.freeze = true)
    ∧ (memRead s 0x001).toNat < 2 ^ 9
    ∧ memRead s 0x000 = 0 ∧ memRead s 0x002 = BitVec.ofNat 32 s.result.code
    ∧ memRead s 0x003 = BitVec.ofNat 32 (s.cfg.n + (s.cfg.n - s.cfg.ha)) ∧ memRead s 0x004 = 7
    ∧ memRead s 0x005 = s.arg0 ∧ memRead s 0x006 = s.srate ∧ (memRead s 0x007).toNat = s.maxblk.toNat
    ∧ memRead s 0x008 = s.cseq ∧ memRead s 0x009 = s.diagNi ∧ memRead s 0x00A = s.diagBbv
    ∧ memRead s 0x00B = s.diagPor ∧ memRead s 0x00C = s.warmz ∧ memRead s 0x00D = s.produced
    ∧ memRead s 0x00E = s.framecnt ∧ memRead s 0x00F = BitVec.ofNat 32 s.hs
    ∧ memRead s 0x010 = BitVec.ofNat 32 s.avail ∧ memRead s 0x011 = BitVec.ofNat 32 s.cfg.n
    ∧ memRead s 0x012 = BitVec.ofNat 32 s.cfg.ha ∧ memRead s 0x013 = BitVec.ofNat 32 s.cfg.l
    ∧ memRead s 0x020 = s.param.stretch.toBits ∧ memRead s 0x021 = s.param.pitch.toBits
    ∧ memRead s 0x022 = s.param.freeze.toBits ∧ memRead s 0x023 = s.param.gthr.toBits
    ∧ memRead s 0x024 = s.param.glo.toBits ∧ memRead s 0x025 = s.param.ghi.toBits
    ∧ memRead s 0x026 = s.param.smear.toBits
    ∧ (∀ i, s.cfg.maxBlkHw ≤ 2 ^ 21 - 1 → i < s.cfg.maxBlkHw → memRead s (BitVec.ofNat 22 (0x1000 + i)) = s.bufWord i)
    ∧ (∀ a : BitVec 22, 0x013 < a.toNat ∧ a.toNat < 0x020 ∨ 0x026 < a.toNat ∧ a.toNat < 0x1000
        ∨ 0x1000 + s.cfg.maxBlkHw ≤ a.toNat → memRead s a = 0)

/-- A read changes nothing but the word the host holds; a write to an address that is neither `CMD` nor a parameter
stores its word in `ARG0` or `BUF`, or does nothing (20_memory.md R81; 10_state.md R62). -/
def Obligations.PlainAccessesLandWhereMapped : Prop :=
  ∀ (s : State) (v : Word), s.cfg.maxBlkHw ≤ 2 ^ 21 - 1 →
    (∀ a, access (.read a) s = .next { s with rdata := memRead s a })
    ∧ access (.write 0x005 v) s = .next { s with arg0 := v }
    ∧ (∀ i, i < s.cfg.maxBlkHw → ∃ t, access (.write (BitVec.ofNat 22 (0x1000 + i)) v) s = .next t
        ∧ t.bufWord i = v
        ∧ (∀ a, a < bufByteAddr i 0 ∨ bufByteAddr i 3 < a → Memory.readByte t.buf a = Memory.readByte s.buf a)
        ∧ t = { s with buf := t.buf })
    ∧ (∀ a : BitVec 22, a.toNat ≠ 0x000 → a.toNat ≠ 0x005 → a.toNat < 0x020 ∨ 0x026 < a.toNat ∧ a.toNat < 0x1000
        ∨ 0x1000 + s.cfg.maxBlkHw ≤ a.toNat → access (.write a v) s = .next s)

/-- A host write to `PARAM[i]` (47_facade.md R230): dropped and counted where not finite, clamped and counted where
outside [0, 1], else stored, a zero as +0; the published field is mapped from what is stored, by the curves of R231 to
R237 in every build, and no other field changes. The curve of STRETCH is written without R231's last clamp; that this
clamp never binds is the spec's own inference (R238). -/
def Obligations.ParameterWriteClampsAndMaps : Prop :=
  ∀ (s : State) (i : ParamIndex) (a : BitVec 22) (u : Word), paramAt a.toNat = some i →
    let v := F.ofBits u
    (v.isFinite = false → access (.write a u) s = .next { s with diagPor := satAdd s.diagPor 1 })
    ∧ (v.isFinite = true →
        let w := if F.lt v .zero then .zero else if F.lt .one v then .one else if v.isZero then .zero else v
        ∃ t, access (.write a u) s = .next t
          ∧ w.isUnit = true ∧ t.param.get i = w ∧ (∀ j, j ≠ i → t.param.get j = s.param.get j)
          ∧ t.pub = publish s.cfg w s.pub i ∧ s.pub.AgreeBut t.pub i
          ∧ (s.cfg.wf = true → t.pub.FollowsCurve s.cfg w i)
          ∧ (s.pub = mappedOf s.cfg s.param → t.pub = mappedOf s.cfg t.param)
          ∧ t.diagPor = (if F.lt v .zero || F.lt .one v then satAdd s.diagPor 1 else s.diagPor)
          ∧ t = { s with param := t.param, pub := t.pub, diagPor := t.diagPor })

/-- Every mapping of a normalized value is the one its rule draws: 1.0 in the snap band, else the two linear pieces of
STRETCH and the power of two of PITCH, a threshold at 0.5 for FREEZE, p itself for GTHR and SMEAR, p * H rounded for GLO
and GHI (47_facade.md R231 to R237); and it lies in its documented range (R238, the spec's own inference, as is that the
clamp of STRETCH never binds). -/
def Obligations.MappingsStayInRange : Prop :=
  ∀ (c : Cfg) (r : ParamRegs), c.wf = true → r.isUnit = true →
    (∀ i, (mappedOf c r).FollowsCurve c (r.get i) i) ∧ (mappedOf c r).InRange c

/-- A bridge performs an aligned 32-bit access as the word access of a quarter of its address (20_memory.md R82), and any
other access not at all (R83). That bridge accesses are entries of the host's stream, with addresses relative to the
engine's own space, is the model's choice (log 14; 93_implementation_defined.md U10 would refuse narrower ones). -/
def Obligations.BridgeHonoursAlignedWords : Prop :=
  ∀ (s : State) (b : BitVec 24) (size : Nat) (v : Word),
    (size = 4 ∧ b.toNat % 4 = 0 →
      access (.busRead b size) s = access (.read (BitVec.ofNat 22 (b.toNat / 4))) s
      ∧ access (.busWrite b size v) s = access (.write (BitVec.ofNat 22 (b.toNat / 4)) v) s)
    ∧ (size ≠ 4 ∨ b.toNat % 4 ≠ 0 →
      access (.busRead b size) s = .next { s with rdata := 0 } ∧ access (.busWrite b size v) s = .next s)

/-! ### Numerics -/

/-- Narrowing an exact magnitude n/d counts of 2^-149 is to nearest, ties to an even significand, with overflow to
infinity from halfway above the largest finite magnitude (00_scope.md R14). -/
def Obligations.RoundingIsNearestEven : Prop :=
  ∀ (neg : Bool) (n d : Nat), 0 < d →
    (∀ (s : Bool) (m : Mag), F.round neg n d = .fin s m → s = neg ∧ ∀ k : Mag,
      ((m.units * d : Nat) - (n : Int)).natAbs ≤ ((k.units * d : Nat) - (n : Int)).natAbs
      ∧ (k ≠ m → ((m.units * d : Nat) - (n : Int)).natAbs = ((k.units * d : Nat) - (n : Int)).natAbs →
          m.val % 2 = 0))
    ∧ (F.round neg n d = .inf neg ↔ (2 ^ 25 - 1) * 2 ^ 252 * d ≤ n)

/-- `wrap` of a finite phase of magnitude at most 2^22 lies in (-PI, PI]; of a datum that is not finite it is NaN
(00_scope.md R20; the interval is the spec's own inference). -/
def Obligations.WrapLandsInInterval : Prop :=
  ∀ x : F, (x.isFinite = true → F.le (F.abs x) (F.ofInt (2 ^ 22)) = true → (F.wrap x).isWrapped = true)
    ∧ (x.isFinite = false → F.wrap x = .nan)

/-- Every numeric record a build can have meets 00_scope.md R15 (a), (b), (c), and (d) but for its monotonicity, NUM_REF
among them; a build's own record is an arbitrary one (log 8), and NUM_REF's functions are the model's computation of the
correctly rounded ones (log 7). -/
def Obligations.NumericRecordsMeetRanges : Prop :=
  ∀ num : NumChoice,
    (num.fns.fcos .nan = .nan ∧ num.fns.fsin .nan = .nan ∧ num.fns.fexp2 .nan = .nan)
    ∧ (∀ a, num.fns.fatan2 .nan a = .nan ∧ num.fns.fatan2 a .nan = .nan)
    ∧ (∀ sg, num.fns.fcos (.inf sg) = .nan ∧ num.fns.fsin (.inf sg) = .nan)
    ∧ (∀ a : F, a.isFinite = true →
        (num.fns.fcos a).isFinite = true ∧ F.within (F.neg .one) .one (num.fns.fcos a) = true
        ∧ (num.fns.fsin a).isFinite = true ∧ F.within (F.neg .one) .one (num.fns.fsin a) = true)
    ∧ (∀ a : F, a.isZero = true → num.fns.fcos a = .one ∧ num.fns.fexp2 a = .one) ∧ num.fns.fsin .zero = .zero
    ∧ (∀ y x : F, y ≠ .nan → x ≠ .nan →
        (num.fns.fatan2 y x).isFinite = true ∧ F.within (F.neg .pi) .pi (num.fns.fatan2 y x) = true)
    ∧ (∀ x : F, F.lt .zero x = true ∨ x = .zero → num.fns.fatan2 .zero x = .zero)
    ∧ (∀ x : F, F.lt x .zero = true → num.fns.fatan2 .zero x = .pi)
    ∧ num.fns.fexp2 .one = .two ∧ num.fns.fexp2 (F.neg .one) = .half
    ∧ (∀ a : F, F.within (F.neg .one) .one a = true →
        (num.fns.fexp2 a).isFinite = true ∧ F.lt .zero (num.fns.fexp2 a) = true)
end

