-- ==== Sys2Proof/Laws/Data.lean ====
section
/-! SUPPORT. What the loops, the keyed lists, the working memories and the sample buffer do: one lemma per operation, and
the proof that every memory operation keeps its canonical form. -/

namespace Sys2Proof

/-! ### Loops -/

@[simp] theorem forRange_zero {σ : Type} (f : Nat → σ → σ) (s : σ) : forRange 0 f s = s := rfl

@[simp] theorem forRange_succ {σ : Type} (n : Nat) (f : Nat → σ → σ) (s : σ) :
    forRange (n + 1) f s = f n (forRange n f s) := rfl

/-- A property that every pass of a loop keeps holds after it. -/
theorem forRange_induction {σ : Type} {P : Nat → σ → Prop} {n : Nat} {f : Nat → σ → σ} {s : σ}
    (h0 : P 0 s) (hstep : ∀ k t, k < n → P k t → P (k + 1) (f k t)) : P n (forRange n f s) := by
  induction n with
  | zero => exact h0
  | succ n ih => exact hstep n _ (Nat.lt_succ_self n) (ih fun k t hk => hstep k t (Nat.lt_succ_of_lt hk))

/-- A property that does not depend on the pass and that every pass keeps. -/
theorem forRange_keeps {σ : Type} {P : σ → Prop} {n : Nat} {f : Nat → σ → σ} {s : σ}
    (h0 : P s) (hstep : ∀ k t, k < n → P t → P (f k t)) : P (forRange n f s) :=
  forRange_induction (P := fun _ t => P t) h0 hstep

/-- What no pass changes, the loop does not change. -/
theorem forRange_fixed {σ α : Type} {n : Nat} {f : Nat → σ → σ} {s : σ} (g : σ → α)
    (h : ∀ k t, k < n → g (f k t) = g t) : g (forRange n f s) = g s :=
  forRange_keeps (P := fun t => g t = g s) rfl fun k t hk ht => (h k t hk).trans ht

/-- Two loops whose passes agree on what they meet. -/
theorem forRange_congr {σ : Type} {n : Nat} {f g : Nat → σ → σ} {s : σ}
    (h : ∀ k t, k < n → f k t = g k t) : forRange n f s = forRange n g s := by
  induction n with
  | zero => rfl
  | succ n ih =>
    rw [forRange_succ, forRange_succ, ih fun k t hk => h k t (Nat.lt_succ_of_lt hk), h n _ (Nat.lt_succ_self n)]

/-- A map that carries each pass of one loop to the same pass of another carries the loops to each other. -/
theorem forRange_map {σ τ : Type} {n : Nat} {f : Nat → σ → σ} {g : Nat → τ → τ} {s : σ} (m : σ → τ)
    (h : ∀ k t, k < n → m (f k t) = g k (m t)) : m (forRange n f s) = forRange n g (m s) := by
  induction n with
  | zero => rfl
  | succ n ih =>
    rw [forRange_succ, forRange_succ, h n _ (Nat.lt_succ_self n), ih fun k t hk => h k t (Nat.lt_succ_of_lt hk)]

theorem forSpan_keeps {σ : Type} {P : σ → Prop} {a b : Nat} {f : Nat → σ → σ} {s : σ}
    (h0 : P s) (hstep : ∀ k t, a ≤ k → k ≤ b → P t → P (f k t)) : P (forSpan a b f s) :=
  forRange_keeps h0 fun k t hk => hstep (a + k) t (Nat.le_add_right a k) (by omega)

theorem forSpan_fixed {σ α : Type} {a b : Nat} {f : Nat → σ → σ} {s : σ} (g : σ → α)
    (h : ∀ k t, a ≤ k → k ≤ b → g (f k t) = g t) : g (forSpan a b f s) = g s :=
  forSpan_keeps (P := fun t => g t = g s) rfl fun k t h1 h2 ht => (h k t h1 h2).trans ht

theorem forSpan_map {σ τ : Type} {a b : Nat} {f : Nat → σ → σ} {g : Nat → τ → τ} {s : σ} (m : σ → τ)
    (h : ∀ k t, a ≤ k → k ≤ b → m (f k t) = g k (m t)) : m (forSpan a b f s) = forSpan a b g (m s) :=
  forRange_map m fun k t hk => h (a + k) t (Nat.le_add_right a k) (by omega)

/-! ### Bit reversal -/

theorem bitrev_lt (bits n : Nat) : bitrev bits n < 2 ^ bits := by
  induction bits generalizing n with
  | zero => simp [bitrev]
  | succ b ih =>
    have h1 := ih (n / 2)
    have h2 : n % 2 < 2 := Nat.mod_lt _ (by decide)
    have h3 : n % 2 * 2 ^ b ≤ 1 * 2 ^ b := Nat.mul_le_mul_right _ (by omega)
    rw [bitrev, pow_succ]
    omega

/-! ### Saturating counters -/

/-- `sat32` as an integer (00_scope.md R21). -/
theorem satAdd_toNat (c : Word) (k : Nat) : (satAdd c k).toNat = min (c.toNat + k) (2 ^ 32 - 1) := by
  have h : min (c.toNat + k) (2 ^ 32 - 1) < 2 ^ 32 := lt_of_le_of_lt (min_le_right _ _) (by decide)
  show (BitVec.ofNat 32 (min (c.toNat + k) (2 ^ 32 - 1))).toNat = _
  rw [BitVec.toNat_ofNat, Nat.mod_eq_of_lt h]

/-- A saturating counter never goes down. -/
theorem le_satAdd (c : Word) (k : Nat) : c.toNat ≤ (satAdd c k).toNat := by
  have h := c.isLt
  rw [satAdd_toNat]
  omega

namespace Machine

/-! ### Keyed lists -/

section Keyed
variable {α : Type}

theorem keyGet_keyPut (k j : Nat) (v : α) (es : List (Nat × α)) :
    keyGet j (keyPut k v es) = if j = k then some v else keyGet j es := by
  induction es with
  | nil => simp only [keyPut, keyGet]
  | cons e es ih =>
    unfold keyPut
    split
    · simp only [keyGet]
    · split
      · rename_i hk
        subst hk
        simp only [keyGet]
        split <;> rfl
      · simp only [keyGet, ih]
        split <;> rename_i h1
        · split <;> rename_i h2
          · omega
          · rfl
        · rfl

theorem keyGet_keyDrop (k j : Nat) (es : List (Nat × α)) :
    keyGet j (keyDrop k es) = if j = k then none else keyGet j es := by
  induction es with
  | nil => simp [keyDrop, keyGet]
  | cons e es ih =>
    have ih' : keyGet j (es.filter fun e => decide (e.1 ≠ k)) = if j = k then none else keyGet j es := ih
    unfold keyDrop
    rw [List.filter_cons]
    split <;> rename_i h
    · have hne : e.1 ≠ k := of_decide_eq_true h
      simp only [keyGet, ih']
      by_cases h1 : j = e.1
      · have : j ≠ k := by omega
        simp only [h1, if_true, hne, if_false]
      · simp only [h1, if_false]
    · have heq : e.1 = k := by
        by_contra hne
        exact h (decide_eq_true hne)
      rw [ih']
      by_cases h1 : j = k
      · simp only [h1, if_true]
      · have : j ≠ e.1 := by omega
        simp only [keyGet, h1, this, if_false]

/-- Where the entries of a list with one more come from. -/
theorem mem_keyPut {k : Nat} {v : α} {es : List (Nat × α)} {e : Nat × α}
    (h : e ∈ keyPut k v es) : e = (k, v) ∨ (e ∈ es ∧ e.1 ≠ k) ∨ e ∈ es := by
  induction es with
  | nil => exact .inl (List.mem_singleton.mp h)
  | cons x xs ih =>
    unfold keyPut at h
    split at h
    · rcases List.mem_cons.mp h with h | h
      · exact .inl h
      · exact .inr (.inr h)
    · split at h
      · rcases List.mem_cons.mp h with h | h
        · exact .inl h
        · exact .inr (.inr (List.mem_cons_of_mem _ h))
      · rcases List.mem_cons.mp h with h | h
        · exact .inr (.inr (h ▸ List.mem_cons_self))
        · rcases ih h with h | h | h
          · exact .inl h
          · exact .inr (.inr (List.mem_cons_of_mem _ h.1))
          · exact .inr (.inr (List.mem_cons_of_mem _ h))

theorem keyPut_rising {k : Nat} {v : α} {es : List (Nat × α)} (h : Rising es) : Rising (keyPut k v es) := by
  induction es with
  | nil => exact List.pairwise_singleton _ _
  | cons x xs ih =>
    have hx := List.pairwise_cons.mp h
    unfold keyPut
    split
    · rename_i hk
      refine List.pairwise_cons.mpr ⟨fun e he => ?_, h⟩
      rcases List.mem_cons.mp he with he | he
      · exact he ▸ hk
      · exact lt_trans hk (hx.1 e he)
    · split
      · rename_i hk
        exact List.pairwise_cons.mpr ⟨fun e he => hk ▸ hx.1 e he, hx.2⟩
      · rename_i h1 h2
        refine List.pairwise_cons.mpr ⟨fun e he => ?_, ih hx.2⟩
        rcases mem_keyPut he with he | he | he
        · subst he
          show x.1 < k
          omega
        · exact hx.1 e he.1
        · exact hx.1 e he

theorem keyDrop_rising {k : Nat} {es : List (Nat × α)} (h : Rising es) : Rising (keyDrop k es) :=
  List.Pairwise.filter _ h

theorem mem_keyDrop {k : Nat} {es : List (Nat × α)} {e : Nat × α} (h : e ∈ keyDrop k es) : e ∈ es ∧ e.1 ≠ k :=
  ⟨(List.mem_filter.mp h).1, of_decide_eq_true (List.mem_filter.mp h).2⟩

theorem keyGet_mem {k : Nat} {v : α} {es : List (Nat × α)} (h : keyGet k es = some v) : (k, v) ∈ es := by
  induction es with
  | nil => exact absurd h (by simp [keyGet])
  | cons e es ih =>
    unfold keyGet at h
    split at h <;> rename_i hk
    · have : e = (k, v) := Prod.ext hk.symm (Option.some.inj h)
      exact this ▸ List.mem_cons_self
    · exact List.mem_cons_of_mem _ (ih h)

theorem keyGet_of_mem {k : Nat} {v : α} {es : List (Nat × α)} (hr : Rising es) (h : (k, v) ∈ es) :
    keyGet k es = some v := by
  induction es with
  | nil => exact absurd h List.not_mem_nil
  | cons e es ih =>
    have hx := List.pairwise_cons.mp hr
    unfold keyGet
    rcases List.mem_cons.mp h with h | h
    · subst h
      exact if_pos rfl
    · have hlt : e.1 < k := hx.1 _ h
      rw [if_neg (by omega)]
      exact ih hx.2 h

/-- Lists in canonical order that answer alike are equal: equal memories are equal data. -/
theorem rising_ext {xs ys : List (Nat × α)} (hx : Rising xs) (hy : Rising ys)
    (h : ∀ k, keyGet k xs = keyGet k ys) : xs = ys := by
  have sub : ∀ {as bs : List (Nat × α)}, Rising as → (∀ k, keyGet k as = keyGet k bs) → ∀ e ∈ as, e ∈ bs :=
    fun ha hab e he => keyGet_mem (v := e.2) (hab e.1 ▸ keyGet_of_mem ha he)
  have nodup : ∀ {as : List (Nat × α)}, Rising as → as.Nodup := fun ha =>
    List.Pairwise.imp (fun hlt heq => absurd (congrArg Prod.fst heq) (Nat.ne_of_lt hlt)) ha
  refine List.Perm.eq_of_pairwise (le := fun a b => a.1 < b.1) ?_ hx hy ?_
  · intro a b _ _ h1 h2
    exact absurd h1 (Nat.lt_asymm h2)
  · refine (List.perm_ext_iff_of_nodup (nodup hx) (nodup hy)).mpr fun e => ⟨sub hx h e, sub hy (fun k => (h k).symm) e⟩

end Keyed

/-! ### Working memories -/

theorem Arr.get_nil (i : Nat) : Arr.get [] i = F.zero := rfl

/-- Read after write: the element written, and every other element as before. -/
theorem Arr.get_set (a : Arr) (i j : Nat) (v : F) : Arr.get (Arr.set a i v) j = if j = i then v else Arr.get a j := by
  unfold Arr.get Arr.set
  by_cases hv : v = F.zero
  · rw [if_pos hv, keyGet_keyDrop]
    by_cases hj : j = i
    · simp only [hj, if_true, Option.getD_none, hv]
    · simp only [hj, if_false]
  · rw [if_neg hv, keyGet_keyPut]
    by_cases hj : j = i
    · simp only [hj, if_true, Option.getD_some]
    · simp only [hj, if_false]

theorem Arr.get_set_self (a : Arr) (i : Nat) (v : F) : Arr.get (Arr.set a i v) i = v := by
  rw [Arr.get_set, if_pos rfl]

theorem Arr.get_set_ne (a : Arr) {i j : Nat} (v : F) (h : j ≠ i) : Arr.get (Arr.set a i v) j = Arr.get a j := by
  rw [Arr.get_set, if_neg h]

theorem Arr.wf_nil (n : Nat) : Arr.wf n [] := ⟨List.Pairwise.nil, fun _ h => absurd h List.not_mem_nil⟩

/-- A write inside the memory keeps its canonical form. -/
theorem Arr.wf_set {n i : Nat} {a : Arr} (v : F) (h : Arr.wf n a) (hi : i < n) : Arr.wf n (Arr.set a i v) := by
  unfold Arr.set
  split <;> rename_i hv
  · exact ⟨keyDrop_rising h.1, fun e he => h.2 e (mem_keyDrop he).1⟩
  · refine ⟨keyPut_rising h.1, fun e he => ?_⟩
    rcases mem_keyPut he with he | he | he
    · exact he ▸ ⟨hi, hv⟩
    · exact h.2 e he.1
    · exact h.2 e he

/-- A write of +0 keeps the canonical form wherever it goes. -/
theorem Arr.wf_set_zero {n i : Nat} {a : Arr} (h : Arr.wf n a) : Arr.wf n (Arr.set a i F.zero) := by
  unfold Arr.set
  rw [if_pos rfl]
  exact ⟨keyDrop_rising h.1, fun e he => h.2 e (mem_keyDrop he).1⟩

/-- Outside its size a memory in canonical form reads +0. -/
theorem Arr.get_of_le {n i : Nat} {a : Arr} (h : Arr.wf n a) (hi : n ≤ i) : Arr.get a i = F.zero := by
  unfold Arr.get
  cases hg : keyGet i a with
  | none => rfl
  | some v => exact absurd (h.2 _ (keyGet_mem hg)).1 (by show ¬ i < n; omega)

/-- Memories in canonical form with equal elements are equal data. -/
theorem Arr.ext {n : Nat} {a b : Arr} (ha : Arr.wf n a) (hb : Arr.wf n b)
    (h : ∀ i, Arr.get a i = Arr.get b i) : a = b := by
  refine rising_ext ha.1 hb.1 fun k => ?_
  have hk := h k
  unfold Arr.get at hk
  cases hga : keyGet k a with
  | none =>
    cases hgb : keyGet k b with
    | none => rfl
    | some w =>
      rw [hga, hgb] at hk
      exact absurd hk.symm (hb.2 _ (keyGet_mem hgb)).2
  | some v =>
    cases hgb : keyGet k b with
    | none =>
      rw [hga, hgb] at hk
      exact absurd hk (ha.2 _ (keyGet_mem hga)).2
    | some w =>
      rw [hga, hgb] at hk
      exact congrArg some hk

/-- Filling sets the elements below n and leaves the others. -/
theorem Arr.get_fill (a : Arr) (n j : Nat) (f : Nat → F) :
    Arr.get (Arr.fill a n f) j = if j < n then f j else Arr.get a j := by
  unfold Arr.fill
  induction n with
  | zero => simp only [forRange_zero, Nat.not_lt_zero, if_false]
  | succ n ih =>
    rw [forRange_succ, Arr.get_set, ih]
    by_cases h1 : j = n
    · subst h1
      rw [if_pos rfl, if_pos (Nat.lt_succ_self j)]
    · rw [if_neg h1]
      by_cases h2 : j < n
      · rw [if_pos h2, if_pos (by omega)]
      · rw [if_neg h2, if_neg (by omega)]

theorem Arr.wf_fill {n m : Nat} {a : Arr} (f : Nat → F) (h : Arr.wf n a) (hm : m ≤ n) : Arr.wf n (Arr.fill a m f) :=
  forRange_keeps h fun _ _ hk ht => Arr.wf_set _ ht (lt_of_lt_of_le hk hm)

/-- An exchange exchanges two elements and leaves the others. -/
theorem Arr.get_swap (a : Arr) (i j k : Nat) :
    Arr.get (Arr.swap a i j) k = if k = j then Arr.get a i else if k = i then Arr.get a j else Arr.get a k := by
  unfold Arr.swap
  rw [Arr.get_set, Arr.get_set]

theorem Arr.wf_swap {n i j : Nat} {a : Arr} (h : Arr.wf n a) (hi : i < n) (hj : j < n) : Arr.wf n (Arr.swap a i j) :=
  Arr.wf_set _ (Arr.wf_set _ h hi) hj

/-! ### The sample buffer -/

theorem Memory.readByte_writeByte (m : Memory) (a b : Nat) (v : Byte) :
    Memory.readByte (Memory.writeByte m a v) b = if b = a then some v else Memory.readByte m b :=
  keyGet_keyPut a b v m

/-- A byte write keeps the canonical form. -/
theorem Memory.wf_writeByte {m : Memory} (a : Nat) (v : Byte) (h : Memory.wf m) : Memory.wf (Memory.writeByte m a v) :=
  keyPut_rising h

theorem Memory.wf_writeWord {m : Memory} (i : Nat) (w : Word) (h : Memory.wf m) : Memory.wf (Memory.writeWord m i w) :=
  wf_writeByte _ _ (wf_writeByte _ _ (wf_writeByte _ _ (wf_writeByte _ _ h)))

theorem Memory.wf_nil : Memory.wf [] := List.Pairwise.nil

/-- Where the bytes of a memory come from after a word write. -/
theorem Memory.mem_writeWord {m : Memory} {i : Nat} {w : Word} {e : Host.Cell} (h : e ∈ Memory.writeWord m i w) :
    (bufByteAddr i 0 ≤ e.1 ∧ e.1 ≤ bufByteAddr i 3) ∨ e ∈ m := by
  have step : ∀ {n : Memory} {b : Nat} {v : Byte}, b < 4 → e ∈ Memory.writeByte n (bufByteAddr i b) v →
      (bufByteAddr i 0 ≤ e.1 ∧ e.1 ≤ bufByteAddr i 3) ∨ e ∈ n := by
    intro n b v hb he
    rcases mem_keyPut he with he | he | he
    · left
      rw [he]
      simp only [bufByteAddr]
      omega
    · exact .inr he.1
    · exact .inr he
  unfold Memory.writeWord at h
  rcases step (by decide) h with h | h
  · exact .inl h
  rcases step (by decide) h with h | h
  · exact .inl h
  rcases step (by decide) h with h | h
  · exact .inl h
  exact step (by decide) h

/-- A word write sets the word's four bytes and leaves every other byte. -/
theorem Memory.readByte_writeWord (m : Memory) (i a : Nat) (w : Word) :
    Memory.readByte (Memory.writeWord m i w) a =
      if bufByteAddr i 0 ≤ a ∧ a ≤ bufByteAddr i 3 then some (byteOf w (a - bufByteAddr i 0))
      else Memory.readByte m a := by
  have e1 : bufByteAddr i 1 = bufByteAddr i 0 + 1 := rfl
  have e2 : bufByteAddr i 2 = bufByteAddr i 0 + 2 := rfl
  have e3 : bufByteAddr i 3 = bufByteAddr i 0 + 3 := rfl
  unfold Memory.writeWord
  rw [readByte_writeByte, readByte_writeByte, readByte_writeByte, readByte_writeByte, e1, e2, e3]
  generalize bufByteAddr i 0 = p
  by_cases h : p ≤ a ∧ a ≤ p + 3
  · rw [if_pos h]
    obtain rfl | rfl | rfl | rfl : a = p ∨ a = p + 1 ∨ a = p + 2 ∨ a = p + 3 := by omega
    · rw [if_neg (by omega), if_neg (by omega), if_neg (by omega), if_pos rfl, Nat.sub_self]
    · rw [if_neg (by omega), if_neg (by omega), if_pos rfl, Nat.add_sub_cancel_left]
    · rw [if_neg (by omega), if_pos rfl, Nat.add_sub_cancel_left]
    · rw [if_pos rfl, Nat.add_sub_cancel_left]
  · rw [if_neg h, if_neg (by omega), if_neg (by omega), if_neg (by omega), if_neg (by omega)]

/-- The four bytes of a word put together again are the word. -/
theorem wordOf_byteOf (w : Word) : wordOf (byteOf w 0) (byteOf w 1) (byteOf w 2) (byteOf w 3) = w := by
  apply BitVec.eq_of_toNat_eq
  have h := w.isLt
  simp only [wordOf, byteOf, BitVec.toNat_ofNat]
  omega

/-- `BUF[i]` reads what was written to it. -/
theorem State.bufWord_setBuf_self (s : State) (i : Nat) (w : Word) : (s.setBuf i w).bufWord i = w := by
  have hb : ∀ b, b < 4 → (s.setBuf i w).bufByte (bufByteAddr i b) = byteOf w b := by
    intro b hb
    show (Memory.readByte (Memory.writeWord s.buf i w) (bufByteAddr i b)).getD _ = _
    rw [Memory.readByte_writeWord, if_pos (by simp only [bufByteAddr]; omega), Option.getD_some]
    congr 1
    simp only [bufByteAddr]
    omega
  unfold State.bufWord
  rw [hb 0 (by decide), hb 1 (by decide), hb 2 (by decide), hb 3 (by decide), wordOf_byteOf]

/-- A write to one element leaves the bytes of every other. -/
theorem State.bufByte_setBuf_ne (s : State) {i j b : Nat} (w : Word) (h : j ≠ i) (hb : b < 4) :
    (s.setBuf i w).bufByte (bufByteAddr j b) = s.bufByte (bufByteAddr j b) := by
  show (Memory.readByte (Memory.writeWord s.buf i w) (bufByteAddr j b)).getD _ = _
  rw [Memory.readByte_writeWord, if_neg (by simp only [bufByteAddr]; omega)]
  rfl

theorem State.bufWord_setBuf_ne (s : State) {i j : Nat} (w : Word) (h : j ≠ i) :
    (s.setBuf i w).bufWord j = s.bufWord j := by
  unfold State.bufWord
  rw [bufByte_setBuf_ne s w h (by decide), bufByte_setBuf_ne s w h (by decide), bufByte_setBuf_ne s w h (by decide),
    bufByte_setBuf_ne s w h (by decide)]

/-- An element once written is written. -/
theorem State.bufWritten_setBuf_self (s : State) (i : Nat) (w : Word) : (s.setBuf i w).bufWritten i = true := by
  have hb : ∀ b, b < 4 → (Memory.readByte (s.setBuf i w).buf (bufByteAddr i b)).isSome = true := by
    intro b hb
    show (Memory.readByte (Memory.writeWord s.buf i w) (bufByteAddr i b)).isSome = true
    rw [Memory.readByte_writeWord, if_pos (by simp only [bufByteAddr]; omega)]
    rfl
  unfold State.bufWritten
  rw [hb 0 (by decide), hb 1 (by decide), hb 2 (by decide), hb 3 (by decide)]
  rfl

end Machine

end Sys2Proof
end

