-- ==== Sys2Proof/Laws/State.lean ====
section
/-! SUPPORT. What each shared update does to each field of the state: one lemma per field per update. -/

namespace Sys2Proof.Machine

/-! ### The end of a command -/

@[simp] theorem finish_lstate (r : ResultCode) (s : State) : (finish r s).lstate = s.lstate := rfl
@[simp] theorem finish_variant (r : ResultCode) (s : State) : (finish r s).variant = s.variant := rfl
@[simp] theorem finish_maxblk (r : ResultCode) (s : State) : (finish r s).maxblk = s.maxblk := rfl
@[simp] theorem finish_arg0 (r : ResultCode) (s : State) : (finish r s).arg0 = s.arg0 := rfl
@[simp] theorem finish_srate (r : ResultCode) (s : State) : (finish r s).srate = s.srate := rfl
@[simp] theorem finish_result (r : ResultCode) (s : State) : (finish r s).result = r := rfl
@[simp] theorem finish_cmderr (r : ResultCode) (s : State) : (finish r s).cmderr = (s.cmderr || decide (r ≠ .ok)) := rfl
@[simp] theorem finish_cseq (r : ResultCode) (s : State) : (finish r s).cseq = s.cseq + 1 := rfl
@[simp] theorem finish_diagNi (r : ResultCode) (s : State) : (finish r s).diagNi = s.diagNi := rfl
@[simp] theorem finish_diagBbv (r : ResultCode) (s : State) : (finish r s).diagBbv = s.diagBbv := rfl
@[simp] theorem finish_diagPor (r : ResultCode) (s : State) : (finish r s).diagPor = s.diagPor := rfl
@[simp] theorem finish_produced (r : ResultCode) (s : State) : (finish r s).produced = s.produced := rfl
@[simp] theorem finish_warmz (r : ResultCode) (s : State) : (finish r s).warmz = s.warmz := rfl
@[simp] theorem finish_framecnt (r : ResultCode) (s : State) : (finish r s).framecnt = s.framecnt := rfl
@[simp] theorem finish_param (r : ResultCode) (s : State) : (finish r s).param = s.param := rfl
@[simp] theorem finish_pub (r : ResultCode) (s : State) : (finish r s).pub = s.pub := rfl
@[simp] theorem finish_act (r : ResultCode) (s : State) : (finish r s).act = s.act := rfl
@[simp] theorem finish_rwp (r : ResultCode) (s : State) : (finish r s).rwp = s.rwp := rfl
@[simp] theorem finish_hopcnt (r : ResultCode) (s : State) : (finish r s).hopcnt = s.hopcnt := rfl
@[simp] theorem finish_hs (r : ResultCode) (s : State) : (finish r s).hs = s.hs := rfl
@[simp] theorem finish_wpos (r : ResultCode) (s : State) : (finish r s).wpos = s.wpos := rfl
@[simp] theorem finish_rpos (r : ResultCode) (s : State) : (finish r s).rpos = s.rpos := rfl
@[simp] theorem finish_avail (r : ResultCode) (s : State) : (finish r s).avail = s.avail := rfl
@[simp] theorem finish_preroll (r : ResultCode) (s : State) : (finish r s).preroll = s.preroll := rfl
@[simp] theorem finish_prng (r : ResultCode) (s : State) : (finish r s).prng = s.prng := rfl
@[simp] theorem finish_ring (r : ResultCode) (s : State) : (finish r s).ring = s.ring := rfl
@[simp] theorem finish_frame (r : ResultCode) (s : State) : (finish r s).frame = s.frame := rfl
@[simp] theorem finish_xr (r : ResultCode) (s : State) : (finish r s).xr = s.xr := rfl
@[simp] theorem finish_xi (r : ResultCode) (s : State) : (finish r s).xi = s.xi := rfl
@[simp] theorem finish_mag (r : ResultCode) (s : State) : (finish r s).mag = s.mag := rfl
@[simp] theorem finish_ph (r : ResultCode) (s : State) : (finish r s).ph = s.ph := rfl
@[simp] theorem finish_tif (r : ResultCode) (s : State) : (finish r s).tif = s.tif := rfl
@[simp] theorem finish_lastph (r : ResultCode) (s : State) : (finish r s).lastph = s.lastph := rfl
@[simp] theorem finish_synph (r : ResultCode) (s : State) : (finish r s).synph = s.synph := rfl
@[simp] theorem finish_curmag (r : ResultCode) (s : State) : (finish r s).curmag = s.curmag := rfl
@[simp] theorem finish_curif (r : ResultCode) (s : State) : (finish r s).curif = s.curif := rfl
@[simp] theorem finish_smag (r : ResultCode) (s : State) : (finish r s).smag = s.smag := rfl
@[simp] theorem finish_sif (r : ResultCode) (s : State) : (finish r s).sif = s.sif := rfl
@[simp] theorem finish_phi (r : ResultCode) (s : State) : (finish r s).phi = s.phi := rfl
@[simp] theorem finish_y (r : ResultCode) (s : State) : (finish r s).y = s.y := rfl
@[simp] theorem finish_ola (r : ResultCode) (s : State) : (finish r s).ola = s.ola := rfl
@[simp] theorem finish_env (r : ResultCode) (s : State) : (finish r s).env = s.env := rfl
@[simp] theorem finish_buf (r : ResultCode) (s : State) : (finish r s).buf = s.buf := rfl
@[simp] theorem finish_cfg (r : ResultCode) (s : State) : (finish r s).cfg = s.cfg := rfl
@[simp] theorem finish_pending (r : ResultCode) (s : State) : (finish r s).pending = s.pending := rfl
@[simp] theorem finish_rdata (r : ResultCode) (s : State) : (finish r s).rdata = s.rdata := rfl
@[simp] theorem finish_draws (r : ResultCode) (s : State) : (finish r s).draws = s.draws := rfl

/-! ### Guard entry -/

@[simp] theorem raiseGuard_lstate (g : Guard) (s : State) : (raiseGuard g s).lstate = s.lstate := by cases g <;> rfl
@[simp] theorem raiseGuard_variant (g : Guard) (s : State) : (raiseGuard g s).variant = s.variant := by cases g <;> rfl
@[simp] theorem raiseGuard_maxblk (g : Guard) (s : State) : (raiseGuard g s).maxblk = s.maxblk := by cases g <;> rfl
@[simp] theorem raiseGuard_arg0 (g : Guard) (s : State) : (raiseGuard g s).arg0 = s.arg0 := by cases g <;> rfl
@[simp] theorem raiseGuard_srate (g : Guard) (s : State) : (raiseGuard g s).srate = s.srate := by cases g <;> rfl
@[simp] theorem raiseGuard_result (g : Guard) (s : State) : (raiseGuard g s).result = s.result := by cases g <;> rfl
@[simp] theorem raiseGuard_cmderr (g : Guard) (s : State) : (raiseGuard g s).cmderr = s.cmderr := by cases g <;> rfl
@[simp] theorem raiseGuard_cseq (g : Guard) (s : State) : (raiseGuard g s).cseq = s.cseq := by cases g <;> rfl
@[simp] theorem raiseGuard_produced (g : Guard) (s : State) : (raiseGuard g s).produced = s.produced := by cases g <;> rfl
@[simp] theorem raiseGuard_warmz (g : Guard) (s : State) : (raiseGuard g s).warmz = s.warmz := by cases g <;> rfl
@[simp] theorem raiseGuard_framecnt (g : Guard) (s : State) : (raiseGuard g s).framecnt = s.framecnt := by cases g <;> rfl
@[simp] theorem raiseGuard_param (g : Guard) (s : State) : (raiseGuard g s).param = s.param := by cases g <;> rfl
@[simp] theorem raiseGuard_pub (g : Guard) (s : State) : (raiseGuard g s).pub = s.pub := by cases g <;> rfl
@[simp] theorem raiseGuard_act (g : Guard) (s : State) : (raiseGuard g s).act = s.act := by cases g <;> rfl
@[simp] theorem raiseGuard_rwp (g : Guard) (s : State) : (raiseGuard g s).rwp = s.rwp := by cases g <;> rfl
@[simp] theorem raiseGuard_hopcnt (g : Guard) (s : State) : (raiseGuard g s).hopcnt = s.hopcnt := by cases g <;> rfl
@[simp] theorem raiseGuard_hs (g : Guard) (s : State) : (raiseGuard g s).hs = s.hs := by cases g <;> rfl
@[simp] theorem raiseGuard_wpos (g : Guard) (s : State) : (raiseGuard g s).wpos = s.wpos := by cases g <;> rfl
@[simp] theorem raiseGuard_rpos (g : Guard) (s : State) : (raiseGuard g s).rpos = s.rpos := by cases g <;> rfl
@[simp] theorem raiseGuard_avail (g : Guard) (s : State) : (raiseGuard g s).avail = s.avail := by cases g <;> rfl
@[simp] theorem raiseGuard_preroll (g : Guard) (s : State) : (raiseGuard g s).preroll = s.preroll := by cases g <;> rfl
@[simp] theorem raiseGuard_prng (g : Guard) (s : State) : (raiseGuard g s).prng = s.prng := by cases g <;> rfl
@[simp] theorem raiseGuard_ring (g : Guard) (s : State) : (raiseGuard g s).ring = s.ring := by cases g <;> rfl
@[simp] theorem raiseGuard_frame (g : Guard) (s : State) : (raiseGuard g s).frame = s.frame := by cases g <;> rfl
@[simp] theorem raiseGuard_xr (g : Guard) (s : State) : (raiseGuard g s).xr = s.xr := by cases g <;> rfl
@[simp] theorem raiseGuard_xi (g : Guard) (s : State) : (raiseGuard g s).xi = s.xi := by cases g <;> rfl
@[simp] theorem raiseGuard_mag (g : Guard) (s : State) : (raiseGuard g s).mag = s.mag := by cases g <;> rfl
@[simp] theorem raiseGuard_ph (g : Guard) (s : State) : (raiseGuard g s).ph = s.ph := by cases g <;> rfl
@[simp] theorem raiseGuard_tif (g : Guard) (s : State) : (raiseGuard g s).tif = s.tif := by cases g <;> rfl
@[simp] theorem raiseGuard_lastph (g : Guard) (s : State) : (raiseGuard g s).lastph = s.lastph := by cases g <;> rfl
@[simp] theorem raiseGuard_synph (g : Guard) (s : State) : (raiseGuard g s).synph = s.synph := by cases g <;> rfl
@[simp] theorem raiseGuard_curmag (g : Guard) (s : State) : (raiseGuard g s).curmag = s.curmag := by cases g <;> rfl
@[simp] theorem raiseGuard_curif (g : Guard) (s : State) : (raiseGuard g s).curif = s.curif := by cases g <;> rfl
@[simp] theorem raiseGuard_smag (g : Guard) (s : State) : (raiseGuard g s).smag = s.smag := by cases g <;> rfl
@[simp] theorem raiseGuard_sif (g : Guard) (s : State) : (raiseGuard g s).sif = s.sif := by cases g <;> rfl
@[simp] theorem raiseGuard_phi (g : Guard) (s : State) : (raiseGuard g s).phi = s.phi := by cases g <;> rfl
@[simp] theorem raiseGuard_y (g : Guard) (s : State) : (raiseGuard g s).y = s.y := by cases g <;> rfl
@[simp] theorem raiseGuard_ola (g : Guard) (s : State) : (raiseGuard g s).ola = s.ola := by cases g <;> rfl
@[simp] theorem raiseGuard_env (g : Guard) (s : State) : (raiseGuard g s).env = s.env := by cases g <;> rfl
@[simp] theorem raiseGuard_buf (g : Guard) (s : State) : (raiseGuard g s).buf = s.buf := by cases g <;> rfl
@[simp] theorem raiseGuard_cfg (g : Guard) (s : State) : (raiseGuard g s).cfg = s.cfg := by cases g <;> rfl
@[simp] theorem raiseGuard_pending (g : Guard) (s : State) : (raiseGuard g s).pending = s.pending := by cases g <;> rfl
@[simp] theorem raiseGuard_rdata (g : Guard) (s : State) : (raiseGuard g s).rdata = s.rdata := by cases g <;> rfl
@[simp] theorem raiseGuard_draws (g : Guard) (s : State) : (raiseGuard g s).draws = s.draws := by cases g <;> rfl

/-! ### A write to the sample buffer -/

@[simp] theorem State.setBuf_lstate (i : Nat) (w : Word) (s : State) : (s.setBuf i w).lstate = s.lstate := rfl
@[simp] theorem State.setBuf_variant (i : Nat) (w : Word) (s : State) : (s.setBuf i w).variant = s.variant := rfl
@[simp] theorem State.setBuf_maxblk (i : Nat) (w : Word) (s : State) : (s.setBuf i w).maxblk = s.maxblk := rfl
@[simp] theorem State.setBuf_arg0 (i : Nat) (w : Word) (s : State) : (s.setBuf i w).arg0 = s.arg0 := rfl
@[simp] theorem State.setBuf_srate (i : Nat) (w : Word) (s : State) : (s.setBuf i w).srate = s.srate := rfl
@[simp] theorem State.setBuf_result (i : Nat) (w : Word) (s : State) : (s.setBuf i w).result = s.result := rfl
@[simp] theorem State.setBuf_cmderr (i : Nat) (w : Word) (s : State) : (s.setBuf i w).cmderr = s.cmderr := rfl
@[simp] theorem State.setBuf_cseq (i : Nat) (w : Word) (s : State) : (s.setBuf i w).cseq = s.cseq := rfl
@[simp] theorem State.setBuf_diagNi (i : Nat) (w : Word) (s : State) : (s.setBuf i w).diagNi = s.diagNi := rfl
@[simp] theorem State.setBuf_diagBbv (i : Nat) (w : Word) (s : State) : (s.setBuf i w).diagBbv = s.diagBbv := rfl
@[simp] theorem State.setBuf_diagPor (i : Nat) (w : Word) (s : State) : (s.setBuf i w).diagPor = s.diagPor := rfl
@[simp] theorem State.setBuf_produced (i : Nat) (w : Word) (s : State) : (s.setBuf i w).produced = s.produced := rfl
@[simp] theorem State.setBuf_warmz (i : Nat) (w : Word) (s : State) : (s.setBuf i w).warmz = s.warmz := rfl
@[simp] theorem State.setBuf_framecnt (i : Nat) (w : Word) (s : State) : (s.setBuf i w).framecnt = s.framecnt := rfl
@[simp] theorem State.setBuf_param (i : Nat) (w : Word) (s : State) : (s.setBuf i w).param = s.param := rfl
@[simp] theorem State.setBuf_pub (i : Nat) (w : Word) (s : State) : (s.setBuf i w).pub = s.pub := rfl
@[simp] theorem State.setBuf_act (i : Nat) (w : Word) (s : State) : (s.setBuf i w).act = s.act := rfl
@[simp] theorem State.setBuf_rwp (i : Nat) (w : Word) (s : State) : (s.setBuf i w).rwp = s.rwp := rfl
@[simp] theorem State.setBuf_hopcnt (i : Nat) (w : Word) (s : State) : (s.setBuf i w).hopcnt = s.hopcnt := rfl
@[simp] theorem State.setBuf_hs (i : Nat) (w : Word) (s : State) : (s.setBuf i w).hs = s.hs := rfl
@[simp] theorem State.setBuf_wpos (i : Nat) (w : Word) (s : State) : (s.setBuf i w).wpos = s.wpos := rfl
@[simp] theorem State.setBuf_rpos (i : Nat) (w : Word) (s : State) : (s.setBuf i w).rpos = s.rpos := rfl
@[simp] theorem State.setBuf_avail (i : Nat) (w : Word) (s : State) : (s.setBuf i w).avail = s.avail := rfl
@[simp] theorem State.setBuf_preroll (i : Nat) (w : Word) (s : State) : (s.setBuf i w).preroll = s.preroll := rfl
@[simp] theorem State.setBuf_prng (i : Nat) (w : Word) (s : State) : (s.setBuf i w).prng = s.prng := rfl
@[simp] theorem State.setBuf_ring (i : Nat) (w : Word) (s : State) : (s.setBuf i w).ring = s.ring := rfl
@[simp] theorem State.setBuf_frame (i : Nat) (w : Word) (s : State) : (s.setBuf i w).frame = s.frame := rfl
@[simp] theorem State.setBuf_xr (i : Nat) (w : Word) (s : State) : (s.setBuf i w).xr = s.xr := rfl
@[simp] theorem State.setBuf_xi (i : Nat) (w : Word) (s : State) : (s.setBuf i w).xi = s.xi := rfl
@[simp] theorem State.setBuf_mag (i : Nat) (w : Word) (s : State) : (s.setBuf i w).mag = s.mag := rfl
@[simp] theorem State.setBuf_ph (i : Nat) (w : Word) (s : State) : (s.setBuf i w).ph = s.ph := rfl
@[simp] theorem State.setBuf_tif (i : Nat) (w : Word) (s : State) : (s.setBuf i w).tif = s.tif := rfl
@[simp] theorem State.setBuf_lastph (i : Nat) (w : Word) (s : State) : (s.setBuf i w).lastph = s.lastph := rfl
@[simp] theorem State.setBuf_synph (i : Nat) (w : Word) (s : State) : (s.setBuf i w).synph = s.synph := rfl
@[simp] theorem State.setBuf_curmag (i : Nat) (w : Word) (s : State) : (s.setBuf i w).curmag = s.curmag := rfl
@[simp] theorem State.setBuf_curif (i : Nat) (w : Word) (s : State) : (s.setBuf i w).curif = s.curif := rfl
@[simp] theorem State.setBuf_smag (i : Nat) (w : Word) (s : State) : (s.setBuf i w).smag = s.smag := rfl
@[simp] theorem State.setBuf_sif (i : Nat) (w : Word) (s : State) : (s.setBuf i w).sif = s.sif := rfl
@[simp] theorem State.setBuf_phi (i : Nat) (w : Word) (s : State) : (s.setBuf i w).phi = s.phi := rfl
@[simp] theorem State.setBuf_y (i : Nat) (w : Word) (s : State) : (s.setBuf i w).y = s.y := rfl
@[simp] theorem State.setBuf_ola (i : Nat) (w : Word) (s : State) : (s.setBuf i w).ola = s.ola := rfl
@[simp] theorem State.setBuf_env (i : Nat) (w : Word) (s : State) : (s.setBuf i w).env = s.env := rfl
@[simp] theorem State.setBuf_buf (i : Nat) (w : Word) (s : State) : (s.setBuf i w).buf = Memory.writeWord s.buf i w := rfl
@[simp] theorem State.setBuf_cfg (i : Nat) (w : Word) (s : State) : (s.setBuf i w).cfg = s.cfg := rfl
@[simp] theorem State.setBuf_pending (i : Nat) (w : Word) (s : State) : (s.setBuf i w).pending = s.pending := rfl
@[simp] theorem State.setBuf_rdata (i : Nat) (w : Word) (s : State) : (s.setBuf i w).rdata = s.rdata := rfl
@[simp] theorem State.setBuf_draws (i : Nat) (w : Word) (s : State) : (s.setBuf i w).draws = s.draws := rfl

/-! ### Counting the draw of a free value -/

@[simp] theorem State.countDraw_lstate (i : Nat) (s : State) : (s.countDraw i).lstate = s.lstate := rfl
@[simp] theorem State.countDraw_variant (i : Nat) (s : State) : (s.countDraw i).variant = s.variant := rfl
@[simp] theorem State.countDraw_maxblk (i : Nat) (s : State) : (s.countDraw i).maxblk = s.maxblk := rfl
@[simp] theorem State.countDraw_arg0 (i : Nat) (s : State) : (s.countDraw i).arg0 = s.arg0 := rfl
@[simp] theorem State.countDraw_srate (i : Nat) (s : State) : (s.countDraw i).srate = s.srate := rfl
@[simp] theorem State.countDraw_result (i : Nat) (s : State) : (s.countDraw i).result = s.result := rfl
@[simp] theorem State.countDraw_cmderr (i : Nat) (s : State) : (s.countDraw i).cmderr = s.cmderr := rfl
@[simp] theorem State.countDraw_cseq (i : Nat) (s : State) : (s.countDraw i).cseq = s.cseq := rfl
@[simp] theorem State.countDraw_diagNi (i : Nat) (s : State) : (s.countDraw i).diagNi = s.diagNi := rfl
@[simp] theorem State.countDraw_diagBbv (i : Nat) (s : State) : (s.countDraw i).diagBbv = s.diagBbv := rfl
@[simp] theorem State.countDraw_diagPor (i : Nat) (s : State) : (s.countDraw i).diagPor = s.diagPor := rfl
@[simp] theorem State.countDraw_produced (i : Nat) (s : State) : (s.countDraw i).produced = s.produced := rfl
@[simp] theorem State.countDraw_warmz (i : Nat) (s : State) : (s.countDraw i).warmz = s.warmz := rfl
@[simp] theorem State.countDraw_framecnt (i : Nat) (s : State) : (s.countDraw i).framecnt = s.framecnt := rfl
@[simp] theorem State.countDraw_param (i : Nat) (s : State) : (s.countDraw i).param = s.param := rfl
@[simp] theorem State.countDraw_pub (i : Nat) (s : State) : (s.countDraw i).pub = s.pub := rfl
@[simp] theorem State.countDraw_act (i : Nat) (s : State) : (s.countDraw i).act = s.act := rfl
@[simp] theorem State.countDraw_rwp (i : Nat) (s : State) : (s.countDraw i).rwp = s.rwp := rfl
@[simp] theorem State.countDraw_hopcnt (i : Nat) (s : State) : (s.countDraw i).hopcnt = s.hopcnt := rfl
@[simp] theorem State.countDraw_hs (i : Nat) (s : State) : (s.countDraw i).hs = s.hs := rfl
@[simp] theorem State.countDraw_wpos (i : Nat) (s : State) : (s.countDraw i).wpos = s.wpos := rfl
@[simp] theorem State.countDraw_rpos (i : Nat) (s : State) : (s.countDraw i).rpos = s.rpos := rfl
@[simp] theorem State.countDraw_avail (i : Nat) (s : State) : (s.countDraw i).avail = s.avail := rfl
@[simp] theorem State.countDraw_preroll (i : Nat) (s : State) : (s.countDraw i).preroll = s.preroll := rfl
@[simp] theorem State.countDraw_prng (i : Nat) (s : State) : (s.countDraw i).prng = s.prng := rfl
@[simp] theorem State.countDraw_ring (i : Nat) (s : State) : (s.countDraw i).ring = s.ring := rfl
@[simp] theorem State.countDraw_frame (i : Nat) (s : State) : (s.countDraw i).frame = s.frame := rfl
@[simp] theorem State.countDraw_xr (i : Nat) (s : State) : (s.countDraw i).xr = s.xr := rfl
@[simp] theorem State.countDraw_xi (i : Nat) (s : State) : (s.countDraw i).xi = s.xi := rfl
@[simp] theorem State.countDraw_mag (i : Nat) (s : State) : (s.countDraw i).mag = s.mag := rfl
@[simp] theorem State.countDraw_ph (i : Nat) (s : State) : (s.countDraw i).ph = s.ph := rfl
@[simp] theorem State.countDraw_tif (i : Nat) (s : State) : (s.countDraw i).tif = s.tif := rfl
@[simp] theorem State.countDraw_lastph (i : Nat) (s : State) : (s.countDraw i).lastph = s.lastph := rfl
@[simp] theorem State.countDraw_synph (i : Nat) (s : State) : (s.countDraw i).synph = s.synph := rfl
@[simp] theorem State.countDraw_curmag (i : Nat) (s : State) : (s.countDraw i).curmag = s.curmag := rfl
@[simp] theorem State.countDraw_curif (i : Nat) (s : State) : (s.countDraw i).curif = s.curif := rfl
@[simp] theorem State.countDraw_smag (i : Nat) (s : State) : (s.countDraw i).smag = s.smag := rfl
@[simp] theorem State.countDraw_sif (i : Nat) (s : State) : (s.countDraw i).sif = s.sif := rfl
@[simp] theorem State.countDraw_phi (i : Nat) (s : State) : (s.countDraw i).phi = s.phi := rfl
@[simp] theorem State.countDraw_y (i : Nat) (s : State) : (s.countDraw i).y = s.y := rfl
@[simp] theorem State.countDraw_ola (i : Nat) (s : State) : (s.countDraw i).ola = s.ola := rfl
@[simp] theorem State.countDraw_env (i : Nat) (s : State) : (s.countDraw i).env = s.env := rfl
@[simp] theorem State.countDraw_buf (i : Nat) (s : State) : (s.countDraw i).buf = s.buf := rfl
@[simp] theorem State.countDraw_cfg (i : Nat) (s : State) : (s.countDraw i).cfg = s.cfg := rfl
@[simp] theorem State.countDraw_pending (i : Nat) (s : State) : (s.countDraw i).pending = s.pending := rfl
@[simp] theorem State.countDraw_rdata (i : Nat) (s : State) : (s.countDraw i).rdata = s.rdata := rfl
@[simp] theorem State.countDraw_draws (i : Nat) (s : State) : (s.countDraw i).draws = if s.bufWritten i then s.draws else s.draws + 1 := rfl

/-! ### The parameter latch -/

@[simp] theorem latch_lstate (s : State) : (latch s).lstate = s.lstate := rfl
@[simp] theorem latch_variant (s : State) : (latch s).variant = s.variant := rfl
@[simp] theorem latch_maxblk (s : State) : (latch s).maxblk = s.maxblk := rfl
@[simp] theorem latch_arg0 (s : State) : (latch s).arg0 = s.arg0 := rfl
@[simp] theorem latch_srate (s : State) : (latch s).srate = s.srate := rfl
@[simp] theorem latch_result (s : State) : (latch s).result = s.result := rfl
@[simp] theorem latch_cmderr (s : State) : (latch s).cmderr = s.cmderr := rfl
@[simp] theorem latch_cseq (s : State) : (latch s).cseq = s.cseq := rfl
@[simp] theorem latch_diagNi (s : State) : (latch s).diagNi = s.diagNi := rfl
@[simp] theorem latch_diagBbv (s : State) : (latch s).diagBbv = s.diagBbv := rfl
@[simp] theorem latch_diagPor (s : State) : (latch s).diagPor = s.diagPor := rfl
@[simp] theorem latch_produced (s : State) : (latch s).produced = s.produced := rfl
@[simp] theorem latch_warmz (s : State) : (latch s).warmz = s.warmz := rfl
@[simp] theorem latch_framecnt (s : State) : (latch s).framecnt = s.framecnt := rfl
@[simp] theorem latch_param (s : State) : (latch s).param = s.param := rfl
@[simp] theorem latch_pub (s : State) : (latch s).pub = s.pub := rfl
@[simp] theorem latch_act (s : State) : (latch s).act = s.pub := rfl
@[simp] theorem latch_rwp (s : State) : (latch s).rwp = s.rwp := rfl
@[simp] theorem latch_hopcnt (s : State) : (latch s).hopcnt = s.hopcnt := rfl
@[simp] theorem latch_hs (s : State) : (latch s).hs = s.hs := rfl
@[simp] theorem latch_wpos (s : State) : (latch s).wpos = s.wpos := rfl
@[simp] theorem latch_rpos (s : State) : (latch s).rpos = s.rpos := rfl
@[simp] theorem latch_avail (s : State) : (latch s).avail = s.avail := rfl
@[simp] theorem latch_preroll (s : State) : (latch s).preroll = s.preroll := rfl
@[simp] theorem latch_prng (s : State) : (latch s).prng = s.prng := rfl
@[simp] theorem latch_ring (s : State) : (latch s).ring = s.ring := rfl
@[simp] theorem latch_frame (s : State) : (latch s).frame = s.frame := rfl
@[simp] theorem latch_xr (s : State) : (latch s).xr = s.xr := rfl
@[simp] theorem latch_xi (s : State) : (latch s).xi = s.xi := rfl
@[simp] theorem latch_mag (s : State) : (latch s).mag = s.mag := rfl
@[simp] theorem latch_ph (s : State) : (latch s).ph = s.ph := rfl
@[simp] theorem latch_tif (s : State) : (latch s).tif = s.tif := rfl
@[simp] theorem latch_lastph (s : State) : (latch s).lastph = s.lastph := rfl
@[simp] theorem latch_synph (s : State) : (latch s).synph = s.synph := rfl
@[simp] theorem latch_curmag (s : State) : (latch s).curmag = s.curmag := rfl
@[simp] theorem latch_curif (s : State) : (latch s).curif = s.curif := rfl
@[simp] theorem latch_smag (s : State) : (latch s).smag = s.smag := rfl
@[simp] theorem latch_sif (s : State) : (latch s).sif = s.sif := rfl
@[simp] theorem latch_phi (s : State) : (latch s).phi = s.phi := rfl
@[simp] theorem latch_y (s : State) : (latch s).y = s.y := rfl
@[simp] theorem latch_ola (s : State) : (latch s).ola = s.ola := rfl
@[simp] theorem latch_env (s : State) : (latch s).env = s.env := rfl
@[simp] theorem latch_buf (s : State) : (latch s).buf = s.buf := rfl
@[simp] theorem latch_cfg (s : State) : (latch s).cfg = s.cfg := rfl
@[simp] theorem latch_pending (s : State) : (latch s).pending = s.pending := rfl
@[simp] theorem latch_rdata (s : State) : (latch s).rdata = s.rdata := rfl
@[simp] theorem latch_draws (s : State) : (latch s).draws = s.draws := rfl

/-! ### Clearing -/

@[simp] theorem clearWorkingState_lstate (s : State) : (clearWorkingState s).lstate = s.lstate := rfl
@[simp] theorem clearWorkingState_variant (s : State) : (clearWorkingState s).variant = s.variant := rfl
@[simp] theorem clearWorkingState_maxblk (s : State) : (clearWorkingState s).maxblk = s.maxblk := rfl
@[simp] theorem clearWorkingState_arg0 (s : State) : (clearWorkingState s).arg0 = s.arg0 := rfl
@[simp] theorem clearWorkingState_srate (s : State) : (clearWorkingState s).srate = s.srate := rfl
@[simp] theorem clearWorkingState_result (s : State) : (clearWorkingState s).result = s.result := rfl
@[simp] theorem clearWorkingState_cmderr (s : State) : (clearWorkingState s).cmderr = s.cmderr := rfl
@[simp] theorem clearWorkingState_cseq (s : State) : (clearWorkingState s).cseq = s.cseq := rfl
@[simp] theorem clearWorkingState_diagNi (s : State) : (clearWorkingState s).diagNi = s.diagNi := rfl
@[simp] theorem clearWorkingState_diagBbv (s : State) : (clearWorkingState s).diagBbv = s.diagBbv := rfl
@[simp] theorem clearWorkingState_diagPor (s : State) : (clearWorkingState s).diagPor = s.diagPor := rfl
@[simp] theorem clearWorkingState_produced (s : State) : (clearWorkingState s).produced = 0 := rfl
@[simp] theorem clearWorkingState_warmz (s : State) : (clearWorkingState s).warmz = 0 := rfl
@[simp] theorem clearWorkingState_framecnt (s : State) : (clearWorkingState s).framecnt = 0 := rfl
@[simp] theorem clearWorkingState_param (s : State) : (clearWorkingState s).param = s.param := rfl
@[simp] theorem clearWorkingState_pub (s : State) : (clearWorkingState s).pub = s.pub := rfl
@[simp] theorem clearWorkingState_act (s : State) : (clearWorkingState s).act = s.act := rfl
@[simp] theorem clearWorkingState_rwp (s : State) : (clearWorkingState s).rwp = 0 := rfl
@[simp] theorem clearWorkingState_hopcnt (s : State) : (clearWorkingState s).hopcnt = 0 := rfl
@[simp] theorem clearWorkingState_hs (s : State) : (clearWorkingState s).hs = s.cfg.ha := rfl
@[simp] theorem clearWorkingState_wpos (s : State) : (clearWorkingState s).wpos = 0 := rfl
@[simp] theorem clearWorkingState_rpos (s : State) : (clearWorkingState s).rpos = 0 := rfl
@[simp] theorem clearWorkingState_avail (s : State) : (clearWorkingState s).avail = 0 := rfl
@[simp] theorem clearWorkingState_preroll (s : State) : (clearWorkingState s).preroll = s.cfg.n := rfl
@[simp] theorem clearWorkingState_prng (s : State) : (clearWorkingState s).prng = s.cfg.seed := rfl
@[simp] theorem clearWorkingState_ring (s : State) : (clearWorkingState s).ring = [] := rfl
@[simp] theorem clearWorkingState_frame (s : State) : (clearWorkingState s).frame = [] := rfl
@[simp] theorem clearWorkingState_xr (s : State) : (clearWorkingState s).xr = [] := rfl
@[simp] theorem clearWorkingState_xi (s : State) : (clearWorkingState s).xi = [] := rfl
@[simp] theorem clearWorkingState_mag (s : State) : (clearWorkingState s).mag = [] := rfl
@[simp] theorem clearWorkingState_ph (s : State) : (clearWorkingState s).ph = [] := rfl
@[simp] theorem clearWorkingState_tif (s : State) : (clearWorkingState s).tif = [] := rfl
@[simp] theorem clearWorkingState_lastph (s : State) : (clearWorkingState s).lastph = [] := rfl
@[simp] theorem clearWorkingState_synph (s : State) : (clearWorkingState s).synph = [] := rfl
@[simp] theorem clearWorkingState_curmag (s : State) : (clearWorkingState s).curmag = [] := rfl
@[simp] theorem clearWorkingState_curif (s : State) : (clearWorkingState s).curif = [] := rfl
@[simp] theorem clearWorkingState_smag (s : State) : (clearWorkingState s).smag = [] := rfl
@[simp] theorem clearWorkingState_sif (s : State) : (clearWorkingState s).sif = [] := rfl
@[simp] theorem clearWorkingState_phi (s : State) : (clearWorkingState s).phi = [] := rfl
@[simp] theorem clearWorkingState_y (s : State) : (clearWorkingState s).y = [] := rfl
@[simp] theorem clearWorkingState_ola (s : State) : (clearWorkingState s).ola = [] := rfl
@[simp] theorem clearWorkingState_env (s : State) : (clearWorkingState s).env = [] := rfl
@[simp] theorem clearWorkingState_buf (s : State) : (clearWorkingState s).buf = s.buf := rfl
@[simp] theorem clearWorkingState_cfg (s : State) : (clearWorkingState s).cfg = s.cfg := rfl
@[simp] theorem clearWorkingState_pending (s : State) : (clearWorkingState s).pending = s.pending := rfl
@[simp] theorem clearWorkingState_rdata (s : State) : (clearWorkingState s).rdata = s.rdata := rfl
@[simp] theorem clearWorkingState_draws (s : State) : (clearWorkingState s).draws = s.draws := rfl

/-! ### The writer's advance -/

@[simp] theorem advanceWriter_lstate (s : State) : (advanceWriter s).lstate = s.lstate := rfl
@[simp] theorem advanceWriter_variant (s : State) : (advanceWriter s).variant = s.variant := rfl
@[simp] theorem advanceWriter_maxblk (s : State) : (advanceWriter s).maxblk = s.maxblk := rfl
@[simp] theorem advanceWriter_arg0 (s : State) : (advanceWriter s).arg0 = s.arg0 := rfl
@[simp] theorem advanceWriter_srate (s : State) : (advanceWriter s).srate = s.srate := rfl
@[simp] theorem advanceWriter_result (s : State) : (advanceWriter s).result = s.result := rfl
@[simp] theorem advanceWriter_cmderr (s : State) : (advanceWriter s).cmderr = s.cmderr := rfl
@[simp] theorem advanceWriter_cseq (s : State) : (advanceWriter s).cseq = s.cseq := rfl
@[simp] theorem advanceWriter_diagNi (s : State) : (advanceWriter s).diagNi = s.diagNi := rfl
@[simp] theorem advanceWriter_diagBbv (s : State) : (advanceWriter s).diagBbv = s.diagBbv := rfl
@[simp] theorem advanceWriter_diagPor (s : State) : (advanceWriter s).diagPor = s.diagPor := rfl
@[simp] theorem advanceWriter_produced (s : State) : (advanceWriter s).produced = satAdd s.produced s.hs := rfl
@[simp] theorem advanceWriter_warmz (s : State) : (advanceWriter s).warmz = s.warmz := rfl
@[simp] theorem advanceWriter_framecnt (s : State) : (advanceWriter s).framecnt = s.framecnt := rfl
@[simp] theorem advanceWriter_param (s : State) : (advanceWriter s).param = s.param := rfl
@[simp] theorem advanceWriter_pub (s : State) : (advanceWriter s).pub = s.pub := rfl
@[simp] theorem advanceWriter_act (s : State) : (advanceWriter s).act = s.act := rfl
@[simp] theorem advanceWriter_rwp (s : State) : (advanceWriter s).rwp = s.rwp := rfl
@[simp] theorem advanceWriter_hopcnt (s : State) : (advanceWriter s).hopcnt = s.hopcnt := rfl
@[simp] theorem advanceWriter_hs (s : State) : (advanceWriter s).hs = s.hs := rfl
@[simp] theorem advanceWriter_wpos (s : State) : (advanceWriter s).wpos = (s.wpos + s.hs) % s.cfg.l := rfl
@[simp] theorem advanceWriter_rpos (s : State) : (advanceWriter s).rpos = s.rpos := rfl
@[simp] theorem advanceWriter_avail (s : State) : (advanceWriter s).avail = s.avail + s.hs := rfl
@[simp] theorem advanceWriter_preroll (s : State) : (advanceWriter s).preroll = s.preroll := rfl
@[simp] theorem advanceWriter_prng (s : State) : (advanceWriter s).prng = s.prng := rfl
@[simp] theorem advanceWriter_ring (s : State) : (advanceWriter s).ring = s.ring := rfl
@[simp] theorem advanceWriter_frame (s : State) : (advanceWriter s).frame = s.frame := rfl
@[simp] theorem advanceWriter_xr (s : State) : (advanceWriter s).xr = s.xr := rfl
@[simp] theorem advanceWriter_xi (s : State) : (advanceWriter s).xi = s.xi := rfl
@[simp] theorem advanceWriter_mag (s : State) : (advanceWriter s).mag = s.mag := rfl
@[simp] theorem advanceWriter_ph (s : State) : (advanceWriter s).ph = s.ph := rfl
@[simp] theorem advanceWriter_tif (s : State) : (advanceWriter s).tif = s.tif := rfl
@[simp] theorem advanceWriter_lastph (s : State) : (advanceWriter s).lastph = s.lastph := rfl
@[simp] theorem advanceWriter_synph (s : State) : (advanceWriter s).synph = s.synph := rfl
@[simp] theorem advanceWriter_curmag (s : State) : (advanceWriter s).curmag = s.curmag := rfl
@[simp] theorem advanceWriter_curif (s : State) : (advanceWriter s).curif = s.curif := rfl
@[simp] theorem advanceWriter_smag (s : State) : (advanceWriter s).smag = s.smag := rfl
@[simp] theorem advanceWriter_sif (s : State) : (advanceWriter s).sif = s.sif := rfl
@[simp] theorem advanceWriter_phi (s : State) : (advanceWriter s).phi = s.phi := rfl
@[simp] theorem advanceWriter_y (s : State) : (advanceWriter s).y = s.y := rfl
@[simp] theorem advanceWriter_ola (s : State) : (advanceWriter s).ola = s.ola := rfl
@[simp] theorem advanceWriter_env (s : State) : (advanceWriter s).env = s.env := rfl
@[simp] theorem advanceWriter_buf (s : State) : (advanceWriter s).buf = s.buf := rfl
@[simp] theorem advanceWriter_cfg (s : State) : (advanceWriter s).cfg = s.cfg := rfl
@[simp] theorem advanceWriter_pending (s : State) : (advanceWriter s).pending = s.pending := rfl
@[simp] theorem advanceWriter_rdata (s : State) : (advanceWriter s).rdata = s.rdata := rfl
@[simp] theorem advanceWriter_draws (s : State) : (advanceWriter s).draws = s.draws := rfl

/-! ### Consuming a cell -/

@[simp] theorem consumeCell_lstate (s : State) : (consumeCell s).lstate = s.lstate := rfl
@[simp] theorem consumeCell_variant (s : State) : (consumeCell s).variant = s.variant := rfl
@[simp] theorem consumeCell_maxblk (s : State) : (consumeCell s).maxblk = s.maxblk := rfl
@[simp] theorem consumeCell_arg0 (s : State) : (consumeCell s).arg0 = s.arg0 := rfl
@[simp] theorem consumeCell_srate (s : State) : (consumeCell s).srate = s.srate := rfl
@[simp] theorem consumeCell_result (s : State) : (consumeCell s).result = s.result := rfl
@[simp] theorem consumeCell_cmderr (s : State) : (consumeCell s).cmderr = s.cmderr := rfl
@[simp] theorem consumeCell_cseq (s : State) : (consumeCell s).cseq = s.cseq := rfl
@[simp] theorem consumeCell_diagNi (s : State) : (consumeCell s).diagNi = s.diagNi := rfl
@[simp] theorem consumeCell_diagBbv (s : State) : (consumeCell s).diagBbv = s.diagBbv := rfl
@[simp] theorem consumeCell_diagPor (s : State) : (consumeCell s).diagPor = s.diagPor := rfl
@[simp] theorem consumeCell_produced (s : State) : (consumeCell s).produced = s.produced := rfl
@[simp] theorem consumeCell_warmz (s : State) : (consumeCell s).warmz = s.warmz := rfl
@[simp] theorem consumeCell_framecnt (s : State) : (consumeCell s).framecnt = s.framecnt := rfl
@[simp] theorem consumeCell_param (s : State) : (consumeCell s).param = s.param := rfl
@[simp] theorem consumeCell_pub (s : State) : (consumeCell s).pub = s.pub := rfl
@[simp] theorem consumeCell_act (s : State) : (consumeCell s).act = s.act := rfl
@[simp] theorem consumeCell_rwp (s : State) : (consumeCell s).rwp = s.rwp := rfl
@[simp] theorem consumeCell_hopcnt (s : State) : (consumeCell s).hopcnt = s.hopcnt := rfl
@[simp] theorem consumeCell_hs (s : State) : (consumeCell s).hs = s.hs := rfl
@[simp] theorem consumeCell_wpos (s : State) : (consumeCell s).wpos = s.wpos := rfl
@[simp] theorem consumeCell_rpos (s : State) : (consumeCell s).rpos = (s.rpos + 1) % s.cfg.l := rfl
@[simp] theorem consumeCell_avail (s : State) : (consumeCell s).avail = s.avail - 1 := rfl
@[simp] theorem consumeCell_preroll (s : State) : (consumeCell s).preroll = s.preroll := rfl
@[simp] theorem consumeCell_prng (s : State) : (consumeCell s).prng = s.prng := rfl
@[simp] theorem consumeCell_ring (s : State) : (consumeCell s).ring = s.ring := rfl
@[simp] theorem consumeCell_frame (s : State) : (consumeCell s).frame = s.frame := rfl
@[simp] theorem consumeCell_xr (s : State) : (consumeCell s).xr = s.xr := rfl
@[simp] theorem consumeCell_xi (s : State) : (consumeCell s).xi = s.xi := rfl
@[simp] theorem consumeCell_mag (s : State) : (consumeCell s).mag = s.mag := rfl
@[simp] theorem consumeCell_ph (s : State) : (consumeCell s).ph = s.ph := rfl
@[simp] theorem consumeCell_tif (s : State) : (consumeCell s).tif = s.tif := rfl
@[simp] theorem consumeCell_lastph (s : State) : (consumeCell s).lastph = s.lastph := rfl
@[simp] theorem consumeCell_synph (s : State) : (consumeCell s).synph = s.synph := rfl
@[simp] theorem consumeCell_curmag (s : State) : (consumeCell s).curmag = s.curmag := rfl
@[simp] theorem consumeCell_curif (s : State) : (consumeCell s).curif = s.curif := rfl
@[simp] theorem consumeCell_smag (s : State) : (consumeCell s).smag = s.smag := rfl
@[simp] theorem consumeCell_sif (s : State) : (consumeCell s).sif = s.sif := rfl
@[simp] theorem consumeCell_phi (s : State) : (consumeCell s).phi = s.phi := rfl
@[simp] theorem consumeCell_y (s : State) : (consumeCell s).y = s.y := rfl
@[simp] theorem consumeCell_ola (s : State) : (consumeCell s).ola = Arr.set s.ola s.rpos F.zero := rfl
@[simp] theorem consumeCell_env (s : State) : (consumeCell s).env = Arr.set s.env s.rpos F.zero := rfl
@[simp] theorem consumeCell_buf (s : State) : (consumeCell s).buf = s.buf := rfl
@[simp] theorem consumeCell_cfg (s : State) : (consumeCell s).cfg = s.cfg := rfl
@[simp] theorem consumeCell_pending (s : State) : (consumeCell s).pending = s.pending := rfl
@[simp] theorem consumeCell_rdata (s : State) : (consumeCell s).rdata = s.rdata := rfl
@[simp] theorem consumeCell_draws (s : State) : (consumeCell s).draws = s.draws := rfl

/-! ### Storing a parameter -/

@[simp] theorem storeParam_lstate (i : ParamIndex) (v : F) (s : State) : (storeParam i v s).lstate = s.lstate := rfl
@[simp] theorem storeParam_variant (i : ParamIndex) (v : F) (s : State) : (storeParam i v s).variant = s.variant := rfl
@[simp] theorem storeParam_maxblk (i : ParamIndex) (v : F) (s : State) : (storeParam i v s).maxblk = s.maxblk := rfl
@[simp] theorem storeParam_arg0 (i : ParamIndex) (v : F) (s : State) : (storeParam i v s).arg0 = s.arg0 := rfl
@[simp] theorem storeParam_srate (i : ParamIndex) (v : F) (s : State) : (storeParam i v s).srate = s.srate := rfl
@[simp] theorem storeParam_result (i : ParamIndex) (v : F) (s : State) : (storeParam i v s).result = s.result := rfl
@[simp] theorem storeParam_cmderr (i : ParamIndex) (v : F) (s : State) : (storeParam i v s).cmderr = s.cmderr := rfl
@[simp] theorem storeParam_cseq (i : ParamIndex) (v : F) (s : State) : (storeParam i v s).cseq = s.cseq := rfl
@[simp] theorem storeParam_diagNi (i : ParamIndex) (v : F) (s : State) : (storeParam i v s).diagNi = s.diagNi := rfl
@[simp] theorem storeParam_diagBbv (i : ParamIndex) (v : F) (s : State) : (storeParam i v s).diagBbv = s.diagBbv := rfl
@[simp] theorem storeParam_diagPor (i : ParamIndex) (v : F) (s : State) : (storeParam i v s).diagPor = s.diagPor := rfl
@[simp] theorem storeParam_produced (i : ParamIndex) (v : F) (s : State) : (storeParam i v s).produced = s.produced := rfl
@[simp] theorem storeParam_warmz (i : ParamIndex) (v : F) (s : State) : (storeParam i v s).warmz = s.warmz := rfl
@[simp] theorem storeParam_framecnt (i : ParamIndex) (v : F) (s : State) : (storeParam i v s).framecnt = s.framecnt := rfl
@[simp] theorem storeParam_param (i : ParamIndex) (v : F) (s : State) : (storeParam i v s).param = s.param.set v i := rfl
@[simp] theorem storeParam_pub (i : ParamIndex) (v : F) (s : State) : (storeParam i v s).pub = publish s.cfg v s.pub i := rfl
@[simp] theorem storeParam_act (i : ParamIndex) (v : F) (s : State) : (storeParam i v s).act = s.act := rfl
@[simp] theorem storeParam_rwp (i : ParamIndex) (v : F) (s : State) : (storeParam i v s).rwp = s.rwp := rfl
@[simp] theorem storeParam_hopcnt (i : ParamIndex) (v : F) (s : State) : (storeParam i v s).hopcnt = s.hopcnt := rfl
@[simp] theorem storeParam_hs (i : ParamIndex) (v : F) (s : State) : (storeParam i v s).hs = s.hs := rfl
@[simp] theorem storeParam_wpos (i : ParamIndex) (v : F) (s : State) : (storeParam i v s).wpos = s.wpos := rfl
@[simp] theorem storeParam_rpos (i : ParamIndex) (v : F) (s : State) : (storeParam i v s).rpos = s.rpos := rfl
@[simp] theorem storeParam_avail (i : ParamIndex) (v : F) (s : State) : (storeParam i v s).avail = s.avail := rfl
@[simp] theorem storeParam_preroll (i : ParamIndex) (v : F) (s : State) : (storeParam i v s).preroll = s.preroll := rfl
@[simp] theorem storeParam_prng (i : ParamIndex) (v : F) (s : State) : (storeParam i v s).prng = s.prng := rfl
@[simp] theorem storeParam_ring (i : ParamIndex) (v : F) (s : State) : (storeParam i v s).ring = s.ring := rfl
@[simp] theorem storeParam_frame (i : ParamIndex) (v : F) (s : State) : (storeParam i v s).frame = s.frame := rfl
@[simp] theorem storeParam_xr (i : ParamIndex) (v : F) (s : State) : (storeParam i v s).xr = s.xr := rfl
@[simp] theorem storeParam_xi (i : ParamIndex) (v : F) (s : State) : (storeParam i v s).xi = s.xi := rfl
@[simp] theorem storeParam_mag (i : ParamIndex) (v : F) (s : State) : (storeParam i v s).mag = s.mag := rfl
@[simp] theorem storeParam_ph (i : ParamIndex) (v : F) (s : State) : (storeParam i v s).ph = s.ph := rfl
@[simp] theorem storeParam_tif (i : ParamIndex) (v : F) (s : State) : (storeParam i v s).tif = s.tif := rfl
@[simp] theorem storeParam_lastph (i : ParamIndex) (v : F) (s : State) : (storeParam i v s).lastph = s.lastph := rfl
@[simp] theorem storeParam_synph (i : ParamIndex) (v : F) (s : State) : (storeParam i v s).synph = s.synph := rfl
@[simp] theorem storeParam_curmag (i : ParamIndex) (v : F) (s : State) : (storeParam i v s).curmag = s.curmag := rfl
@[simp] theorem storeParam_curif (i : ParamIndex) (v : F) (s : State) : (storeParam i v s).curif = s.curif := rfl
@[simp] theorem storeParam_smag (i : ParamIndex) (v : F) (s : State) : (storeParam i v s).smag = s.smag := rfl
@[simp] theorem storeParam_sif (i : ParamIndex) (v : F) (s : State) : (storeParam i v s).sif = s.sif := rfl
@[simp] theorem storeParam_phi (i : ParamIndex) (v : F) (s : State) : (storeParam i v s).phi = s.phi := rfl
@[simp] theorem storeParam_y (i : ParamIndex) (v : F) (s : State) : (storeParam i v s).y = s.y := rfl
@[simp] theorem storeParam_ola (i : ParamIndex) (v : F) (s : State) : (storeParam i v s).ola = s.ola := rfl
@[simp] theorem storeParam_env (i : ParamIndex) (v : F) (s : State) : (storeParam i v s).env = s.env := rfl
@[simp] theorem storeParam_buf (i : ParamIndex) (v : F) (s : State) : (storeParam i v s).buf = s.buf := rfl
@[simp] theorem storeParam_cfg (i : ParamIndex) (v : F) (s : State) : (storeParam i v s).cfg = s.cfg := rfl
@[simp] theorem storeParam_pending (i : ParamIndex) (v : F) (s : State) : (storeParam i v s).pending = s.pending := rfl
@[simp] theorem storeParam_rdata (i : ParamIndex) (v : F) (s : State) : (storeParam i v s).rdata = s.rdata := rfl
@[simp] theorem storeParam_draws (i : ParamIndex) (v : F) (s : State) : (storeParam i v s).draws = s.draws := rfl

/-! ### The counters a guard counts in -/

@[simp] theorem raiseGuard_numericalInstability_diagNi (s : State) : (raiseGuard .numericalInstability s).diagNi = satAdd s.diagNi 1 := rfl
@[simp] theorem raiseGuard_numericalInstability_diagBbv (s : State) : (raiseGuard .numericalInstability s).diagBbv = s.diagBbv := rfl
@[simp] theorem raiseGuard_numericalInstability_diagPor (s : State) : (raiseGuard .numericalInstability s).diagPor = s.diagPor := rfl
@[simp] theorem raiseGuard_bufferBoundsViolation_diagNi (s : State) : (raiseGuard .bufferBoundsViolation s).diagNi = s.diagNi := rfl
@[simp] theorem raiseGuard_bufferBoundsViolation_diagBbv (s : State) : (raiseGuard .bufferBoundsViolation s).diagBbv = satAdd s.diagBbv 1 := rfl
@[simp] theorem raiseGuard_bufferBoundsViolation_diagPor (s : State) : (raiseGuard .bufferBoundsViolation s).diagPor = s.diagPor := rfl
@[simp] theorem raiseGuard_parameterOutOfRange_diagNi (s : State) : (raiseGuard .parameterOutOfRange s).diagNi = s.diagNi := rfl
@[simp] theorem raiseGuard_parameterOutOfRange_diagBbv (s : State) : (raiseGuard .parameterOutOfRange s).diagBbv = s.diagBbv := rfl
@[simp] theorem raiseGuard_parameterOutOfRange_diagPor (s : State) : (raiseGuard .parameterOutOfRange s).diagPor = satAdd s.diagPor 1 := rfl

end Sys2Proof.Machine
end

