-- ==== Sys2Proof/Laws/Commands.lean ====
section
/-! SUPPORT. What the shared operations of a command can do, said once: the end of a command, the three ways a pipeline
command ends, and which fields each body writes. -/

namespace Sys2Proof.Machine

/-! ### The end of a command -/

theorem finish_ok (s : State) : finish .ok s = { s with result := .ok, cseq := s.cseq + 1 } := by
  unfold finish
  simp

theorem finish_refused {r : ResultCode} (h : r ≠ .ok) (s : State) : finish r s = refusedWith r s := by
  unfold finish refusedWith
  simp [h]

/-- The three ways a pipeline command ends. -/
theorem pipelineCommand_cases {ok : Bool} {body : State → State} {s t : State}
    (h : pipelineCommand ok body s = .next t) :
    s.lstate = .cold ∧ t = refusedWith .notPrepared s
    ∨ s.lstate ≠ .cold ∧ ok = false ∧ t = refusedWith .badArg s
    ∨ s.lstate ≠ .cold ∧ ok = true ∧ t = finish .ok (body s) := by
  unfold pipelineCommand at h
  split at h
  · cases h
    exact .inl ⟨‹_›, finish_refused (by decide) s⟩
  · split at h
    · cases h
      exact .inr (.inr ⟨‹_›, ‹_›, rfl⟩)
    · cases h
      exact .inr (.inl ⟨‹_›, by simpa using ‹¬ok = true›, finish_refused (by decide) s⟩)

theorem pipelineCommand_cold (ok : Bool) (body : State → State) {s : State} (h : s.lstate = .cold) :
    pipelineCommand ok body s = .next (refusedWith .notPrepared s) := by
  unfold pipelineCommand
  rw [if_pos h, finish_refused (by decide)]

theorem pipelineCommand_badArg (body : State → State) {s : State} (h : s.lstate ≠ .cold) :
    pipelineCommand false body s = .next (refusedWith .badArg s) := by
  unfold pipelineCommand
  rw [if_neg h, if_neg (by decide), finish_refused (by decide)]

theorem pipelineCommand_runs (body : State → State) {s : State} (h : s.lstate ≠ .cold) :
    pipelineCommand true body s = .next (finish .ok (body s)) := by
  unfold pipelineCommand
  rw [if_neg h, if_pos rfl]

/-- A pipeline command always ends in a next state. -/
theorem pipelineCommand_next (ok : Bool) (body : State → State) (s : State) :
    ∃ t, pipelineCommand ok body s = .next t := by
  unfold pipelineCommand
  split
  · exact ⟨_, rfl⟩
  · split <;> exact ⟨_, rfl⟩

/-- What `PREPARE` asks of its operands (47_facade.md R224). -/
theorem preparable_eq_some {s : State} {v m : Nat} {variant : Variant} :
    preparable s v m = some variant ↔
      v = variant.code ∧ 1 ≤ m ∧ m ≤ s.cfg.maxBlkHw ∧ s.arg0 ≠ 0 := by
  unfold preparable
  split
  · rename_i h
    constructor
    · intro h'
      cases h'
    · rintro ⟨-, h1, h2, h3⟩
      rcases h with h | h | h
      · omega
      · omega
      · exact absurd h h3
  · rename_i h
    have hv : Variant.ofCode v = some variant ↔ v = variant.code := by
      constructor
      · unfold Variant.ofCode
        split <;> intro h' <;> cases h' <;> rfl
      · rintro rfl
        cases variant <;> rfl
    rw [hv]
    constructor
    · intro h'
      refine ⟨h', ?_, ?_, fun h3 => h (.inr (.inr h3))⟩
      · by_contra h1
        exact h (.inl (by omega))
      · by_contra h2
        exact h (.inr (.inl (by omega)))
    · exact fun h' => h'.1

/-! ### Which fields a body writes

Each lemma gives the state after a body as the state before it with the named fields replaced: the body's frame. -/

theorem stages_writes (inv : Bool) (s : State) : ∃ xr xi, stages inv s = { s with xr := xr, xi := xi } := by
  unfold stages
  refine forSpan_keeps (P := fun t : State => ∃ xr xi, t = { s with xr := xr, xi := xi }) ⟨s.xr, s.xi, rfl⟩ ?_
  intro _ t _ _ ht
  refine forRange_keeps (P := fun t : State => ∃ xr xi, t = { s with xr := xr, xi := xi }) ht ?_
  rintro q u _ ⟨xr, xi, rfl⟩
  exact ⟨_, _, rfl⟩

theorem bodyFftf_writes (s : State) : ∃ xr xi, bodyFftf s = { s with xr := xr, xi := xi } := by
  obtain ⟨xr, xi, h⟩ := stages_writes false (bodyLoadx s)
  unfold bodyFftf
  rw [h]
  exact ⟨_, _, rfl⟩

theorem bodyFfti_writes (s : State) : ∃ xr xi y, bodyFfti s = { s with xr := xr, xi := xi, y := y } := by
  obtain ⟨xr, xi, h⟩ := stages_writes true (bodyBitrev s)
  unfold bodyFfti
  rw [h]
  exact ⟨_, _, _, rfl⟩

theorem acceptFrame_writes (s : State) : ∃ curmag curif synph diagNi, acceptFrame s =
    { s with curmag := curmag, curif := curif, synph := synph, diagNi := diagNi } := by
  unfold acceptFrame raiseGuard
  split
  · exact ⟨s.curmag, s.curif, s.synph, s.diagNi, rfl⟩
  · split
    · exact ⟨_, _, _, s.diagNi, rfl⟩
    · exact ⟨s.curmag, s.curif, s.synph, _, rfl⟩

theorem depositBin_writes (ratio : F) (k : Nat) (s : State) :
    ∃ smag sif, depositBin ratio k s = { s with smag := smag, sif := sif } := by
  unfold depositBin
  dsimp only
  split
  · exact ⟨_, _, rfl⟩
  · exact ⟨s.smag, s.sif, rfl⟩

theorem mapBins_writes (s : State) : ∃ smag sif, mapBins s = { s with smag := smag, sif := sif } := by
  have h : ∃ smag sif, forRange (s.cfg.h + 1) (depositBin (pitchRatio s)) (clearSynthBins s) =
      { s with smag := smag, sif := sif } := by
    refine forRange_keeps (P := fun t : State => ∃ smag sif, t = { s with smag := smag, sif := sif }) ⟨_, _, rfl⟩ ?_
    rintro k t _ ⟨smag, sif, rfl⟩
    obtain ⟨smag', sif', h'⟩ := depositBin_writes (pitchRatio s) k { s with smag := smag, sif := sif }
    exact ⟨smag', sif', h'⟩
  obtain ⟨smag, sif, h⟩ := h
  unfold mapBins
  rw [h]
  exact ⟨_, _, rfl⟩

theorem gateBins_writes (s : State) : ∃ smag, gateBins s = { s with smag := smag } := by
  unfold gateBins
  split
  · exact ⟨_, rfl⟩
  · exact ⟨s.smag, rfl⟩

theorem bodyModify_writes (s : State) : ∃ curmag curif synph diagNi smag sif hs, bodyModify s =
    { s with
      curmag := curmag, curif := curif, synph := synph, diagNi := diagNi, smag := smag, sif := sif, hs := hs } := by
  obtain ⟨a, b, c, d, h1⟩ := acceptFrame_writes s
  obtain ⟨e, f, h2⟩ := mapBins_writes (acceptFrame s)
  obtain ⟨g, h3⟩ := gateBins_writes (mapBins (acceptFrame s))
  unfold bodyModify
  rw [h3, h2, h1]
  exact ⟨_, _, _, _, _, _, _, rfl⟩

theorem choosePhase_writes (k : Nat) (s : State) :
    ∃ prng phi, choosePhase k s = { s with prng := prng, phi := phi } := by
  unfold choosePhase
  split
  · exact ⟨_, _, rfl⟩
  · exact ⟨s.prng, _, rfl⟩

theorem bodyHerm_writes (s : State) :
    ∃ phi prng xr xi, bodyHerm s = { s with phi := phi, prng := prng, xr := xr, xi := xi } := by
  have h : ∃ phi prng xr xi, forRange (s.cfg.h + 1) (fun k s => rotateBin k (choosePhase k s)) s =
      { s with phi := phi, prng := prng, xr := xr, xi := xi } := by
    refine forRange_keeps (P := fun t : State => ∃ phi prng xr xi,
      t = { s with phi := phi, prng := prng, xr := xr, xi := xi }) ⟨s.phi, s.prng, s.xr, s.xi, rfl⟩ ?_
    rintro k t _ ⟨phi, prng, xr, xi, rfl⟩
    obtain ⟨prng', phi', h'⟩ :=
      choosePhase_writes k { s with phi := phi, prng := prng, xr := xr, xi := xi }
    rw [h']
    exact ⟨_, _, _, _, rfl⟩
  obtain ⟨phi, prng, xr, xi, h⟩ := h
  unfold bodyHerm
  rw [h]
  refine forSpan_keeps (P := fun t : State => ∃ phi prng xr xi,
    t = { s with phi := phi, prng := prng, xr := xr, xi := xi }) ⟨phi, prng, xr, _, rfl⟩ ?_
  rintro k t _ _ ⟨phi', prng', xr', xi', rfl⟩
  exact ⟨_, _, _, _, rfl⟩

/-- `OLAW` writes the ring, its positions, `PRODUCED`, the lifecycle state and two counters. -/
theorem bodyOlaw_writes (s : State) : ∃ ola env wpos avail produced lstate diagNi diagBbv, bodyOlaw s =
    { s with
      ola := ola, env := env, wpos := wpos, avail := avail, produced := produced, lstate := lstate
      diagNi := diagNi, diagBbv := diagBbv } := by
  have hacc : ∃ ola env diagNi, accumulate s = { s with ola := ola, env := env, diagNi := diagNi } := by
    unfold accumulate raiseGuard
    split
    · exact ⟨_, _, s.diagNi, rfl⟩
    · exact ⟨s.ola, s.env, _, rfl⟩
  obtain ⟨ola, env, diagNi, hacc⟩ := hacc
  unfold bodyOlaw
  split
  · exact ⟨s.ola, s.env, s.wpos, s.avail, s.produced, s.lstate, s.diagNi, _, rfl⟩
  · rw [hacc]
    unfold settle
    split
    · exact ⟨_, _, _, _, _, _, _, s.diagBbv, rfl⟩
    · exact ⟨_, _, _, _, _, s.lstate, _, s.diagBbv, rfl⟩

/-- `POP` writes `BUF`, its cell, the read position, and three counters. -/
theorem bodyPop_writes (i : Nat) (s : State) : ∃ w ola env rpos avail preroll warmz diagNi, bodyPop i s =
    { s with
      buf := Memory.writeWord s.buf i w, ola := ola, env := env, rpos := rpos, avail := avail, preroll := preroll
      warmz := warmz, diagNi := diagNi } := by
  unfold bodyPop
  split
  · exact ⟨_, s.ola, s.env, s.rpos, s.avail, _, _, s.diagNi, rfl⟩
  · split
    · exact ⟨_, s.ola, s.env, s.rpos, s.avail, s.preroll, _, s.diagNi, rfl⟩
    · unfold emitSample
      split
      · exact ⟨_, _, _, _, _, s.preroll, s.warmz, s.diagNi, rfl⟩
      · exact ⟨_, _, _, _, _, s.preroll, s.warmz, _, rfl⟩

/-- `t` is `s` with only what the parts of `FRAME` write replaced. -/
def FrameWrites (s t : State) : Prop :=
  ∃ frame xr xi mag ph tif lastph curmag curif synph smag sif hs phi prng y ola env wpos avail produced lstate
    diagNi diagBbv, t =
    { s with
      frame := frame, xr := xr, xi := xi, mag := mag, ph := ph, tif := tif, lastph := lastph, curmag := curmag
      curif := curif, synph := synph, smag := smag, sif := sif, hs := hs, phi := phi, prng := prng, y := y, ola := ola
      env := env, wpos := wpos, avail := avail, produced := produced, lstate := lstate, diagNi := diagNi
      diagBbv := diagBbv }

theorem frameWrites_refl (s : State) : FrameWrites s s :=
  ⟨s.frame, s.xr, s.xi, s.mag, s.ph, s.tif, s.lastph, s.curmag, s.curif, s.synph, s.smag, s.sif, s.hs, s.phi,
  s.prng, s.y, s.ola, s.env, s.wpos, s.avail, s.produced, s.lstate, s.diagNi, s.diagBbv, rfl⟩

theorem frameWrites_trans {s t u : State} (h : FrameWrites s t) (h' : FrameWrites t u) : FrameWrites s u := by
  obtain ⟨_, _, _, _, _, _, _, _, _, _, _, _, _, _, _, _, _, _, _, _, _, _, _, _, rfl⟩ := h
  obtain ⟨_, _, _, _, _, _, _, _, _, _, _, _, _, _, _, _, _, _, _, _, _, _, _, _, rfl⟩ := h'
  exact ⟨_, _, _, _, _, _, _, _, _, _, _, _, _, _, _, _, _, _, _, _, _, _, _, _, rfl⟩

theorem frameWrites_extract (s : State) : FrameWrites s (bodyExtract s) := by
  exact ⟨_, s.xr, s.xi, s.mag, s.ph, s.tif, s.lastph, s.curmag, s.curif, s.synph, s.smag, s.sif, s.hs, s.phi,
  s.prng, s.y, s.ola, s.env, s.wpos, s.avail, s.produced, s.lstate, s.diagNi, s.diagBbv, rfl⟩

theorem frameWrites_fftf (s : State) : FrameWrites s (bodyFftf s) := by
  obtain ⟨v0, v1, h⟩ := bodyFftf_writes s
  rw [h]
  exact ⟨s.frame, _, _, s.mag, s.ph, s.tif, s.lastph, s.curmag, s.curif, s.synph, s.smag, s.sif, s.hs, s.phi,
  s.prng, s.y, s.ola, s.env, s.wpos, s.avail, s.produced, s.lstate, s.diagNi, s.diagBbv, rfl⟩

theorem frameWrites_polar (s : State) : FrameWrites s (bodyPolar s) := by
  exact ⟨s.frame, s.xr, s.xi, _, _, s.tif, s.lastph, s.curmag, s.curif, s.synph, s.smag, s.sif, s.hs, s.phi,
  s.prng, s.y, s.ola, s.env, s.wpos, s.avail, s.produced, s.lstate, s.diagNi, s.diagBbv, rfl⟩

theorem frameWrites_track (s : State) : FrameWrites s (bodyTrack s) := by
  exact ⟨s.frame, s.xr, s.xi, s.mag, s.ph, _, _, s.curmag, s.curif, s.synph, s.smag, s.sif, s.hs, s.phi, s.prng,
  s.y, s.ola, s.env, s.wpos, s.avail, s.produced, s.lstate, s.diagNi, s.diagBbv, rfl⟩

theorem frameWrites_modify (s : State) : FrameWrites s (bodyModify s) := by
  obtain ⟨v0, v1, v2, v3, v4, v5, v6, h⟩ := bodyModify_writes s
  rw [h]
  exact ⟨s.frame, s.xr, s.xi, s.mag, s.ph, s.tif, s.lastph, _, _, _, _, _, _, s.phi, s.prng, s.y, s.ola, s.env,
  s.wpos, s.avail, s.produced, s.lstate, _, s.diagBbv, rfl⟩

theorem frameWrites_accum (s : State) : FrameWrites s (bodyAccum s) := by
  exact ⟨s.frame, s.xr, s.xi, s.mag, s.ph, s.tif, s.lastph, s.curmag, s.curif, _, s.smag, s.sif, s.hs, s.phi,
  s.prng, s.y, s.ola, s.env, s.wpos, s.avail, s.produced, s.lstate, s.diagNi, s.diagBbv, rfl⟩

theorem frameWrites_herm (s : State) : FrameWrites s (bodyHerm s) := by
  obtain ⟨v0, v1, v2, v3, h⟩ := bodyHerm_writes s
  rw [h]
  exact ⟨s.frame, _, _, s.mag, s.ph, s.tif, s.lastph, s.curmag, s.curif, s.synph, s.smag, s.sif, s.hs, _, _, s.y,
  s.ola, s.env, s.wpos, s.avail, s.produced, s.lstate, s.diagNi, s.diagBbv, rfl⟩

theorem frameWrites_ffti (s : State) : FrameWrites s (bodyFfti s) := by
  obtain ⟨v0, v1, v2, h⟩ := bodyFfti_writes s
  rw [h]
  exact ⟨s.frame, _, _, s.mag, s.ph, s.tif, s.lastph, s.curmag, s.curif, s.synph, s.smag, s.sif, s.hs, s.phi,
  s.prng, _, s.ola, s.env, s.wpos, s.avail, s.produced, s.lstate, s.diagNi, s.diagBbv, rfl⟩

theorem frameWrites_olaw (s : State) : FrameWrites s (bodyOlaw s) := by
  obtain ⟨v0, v1, v2, v3, v4, v5, v6, v7, h⟩ := bodyOlaw_writes s
  rw [h]
  exact ⟨s.frame, s.xr, s.xi, s.mag, s.ph, s.tif, s.lastph, s.curmag, s.curif, s.synph, s.smag, s.sif, s.hs, s.phi,
  s.prng, s.y, _, _, _, _, _, _, _, _, rfl⟩

/-- The nine parts of `FRAME` write no more than their union. -/
theorem frameWrites_parts (s : State) : FrameWrites s
    (bodyOlaw (bodyFfti (bodyHerm (bodyAccum (bodyModify (bodyTrack (bodyPolar (bodyFftf (bodyExtract s))))))))) :=
  frameWrites_trans (frameWrites_trans (frameWrites_trans (frameWrites_trans (frameWrites_trans (frameWrites_trans
    (frameWrites_trans (frameWrites_trans (frameWrites_extract _) (frameWrites_fftf _)) (frameWrites_polar _))
    (frameWrites_track _)) (frameWrites_modify _)) (frameWrites_accum _)) (frameWrites_herm _)) (frameWrites_ffti _))
    (frameWrites_olaw _)

/-- `FRAME` leaves the frame buffer, the parameters, `BUF` and the reader's position as they are. -/
theorem bodyFrame_writes (s : State) :
    ∃ t, FrameWrites s t ∧ bodyFrame s = { t with framecnt := s.framecnt + 1 } := by
  refine ⟨bodyOlaw (bodyFfti (bodyHerm (bodyAccum (bodyModify (bodyTrack (bodyPolar (bodyFftf (bodyExtract s)))))))),
    ?_, ?_⟩
  · exact frameWrites_parts s
  · have h : ∀ u, FrameWrites s u → u.framecnt = s.framecnt := by
      rintro _ ⟨_, _, _, _, _, _, _, _, _, _, _, _, _, _, _, _, _, _, _, _, _, _, _, _, rfl⟩
      rfl
    unfold bodyFrame
    dsimp only
    rw [h]
    exact frameWrites_parts s

end Sys2Proof.Machine
end

