-- ==== Sys2Proof/Laws/Float.lean ====
section
/-! SUPPORT. What the operations on `F` can answer: one lemma per operation or case. -/

namespace Sys2Proof

namespace F

theorem isFinite_iff {a : F} : a.isFinite = true ↔ ∃ s m, a = .fin s m := by
  cases a <;> simp [isFinite]

/-- Narrowing keeps the sign and gives a finite datum or an infinity. -/
theorem round_cases (neg : Bool) (n d : Nat) : (∃ m, round neg n d = .fin neg m) ∨ round neg n d = .inf neg := by
  unfold round
  split
  · exact .inl ⟨_, rfl⟩
  · exact .inr rfl

theorem round_ne_nan (neg : Bool) (n d : Nat) : round neg n d ≠ .nan := by
  rcases round_cases neg n d with ⟨m, h⟩ | h <;> rw [h] <;> simp

/-- A finite narrowed datum holds the rounded bits. -/
theorem round_eq_fin {neg s : Bool} {n d : Nat} {m : Mag} (h : round neg n d = .fin s m) :
    s = neg ∧ m.val = roundBits n d := by
  unfold round at h
  split at h
  · cases h
    exact ⟨rfl, rfl⟩
  · cases h

@[simp] theorem add_nan_left (a : F) : add .nan a = .nan := rfl

@[simp] theorem add_nan_right (a : F) : add a .nan = .nan := by
  cases a <;> rfl

@[simp] theorem mul_nan_left (a : F) : mul .nan a = .nan := rfl

@[simp] theorem mul_nan_right (a : F) : mul a .nan = .nan := by
  cases a <;> rfl

@[simp] theorem sub_nan_left (a : F) : sub .nan a = .nan := rfl

@[simp] theorem sub_nan_right (a : F) : sub a .nan = .nan := by
  cases a <;> rfl

@[simp] theorem div_nan_left (a : F) : div .nan a = .nan := rfl

@[simp] theorem div_nan_right (a : F) : div a .nan = .nan := by
  cases a <;> rfl

/-- The sum of two finite data: an exact zero, or the exact sum narrowed. -/
theorem add_fin (s t : Bool) (m n : Mag) : add (.fin s m) (.fin t n) =
    if finUnits s m + finUnits t n = 0 then .fin (s && t) ⟨0, by decide⟩
    else round (decide (finUnits s m + finUnits t n < 0)) (finUnits s m + finUnits t n).natAbs 1 := rfl

/-- The product of two finite data: the exact product narrowed. -/
theorem mul_fin (s t : Bool) (m n : Mag) :
    mul (.fin s m) (.fin t n) = round (s ^^ t) (m.units * n.units) (2 ^ 149) := rfl

theorem add_ne_nan {a b : F} (ha : a.isFinite = true) (hb : b.isFinite = true) : add a b ≠ .nan := by
  obtain ⟨s, m, rfl⟩ := isFinite_iff.1 ha
  obtain ⟨t, n, rfl⟩ := isFinite_iff.1 hb
  rw [add_fin]
  split
  · simp
  · exact round_ne_nan _ _ _

theorem mul_ne_nan {a b : F} (ha : a.isFinite = true) (hb : b.isFinite = true) : mul a b ≠ .nan := by
  obtain ⟨s, m, rfl⟩ := isFinite_iff.1 ha
  obtain ⟨t, n, rfl⟩ := isFinite_iff.1 hb
  rw [mul_fin]
  exact round_ne_nan _ _ _

@[simp] theorem neg_neg (a : F) : neg (neg a) = a := by
  cases a <;> simp [neg]

@[simp] theorem isFinite_neg (a : F) : (neg a).isFinite = a.isFinite := by
  cases a <;> rfl

@[simp] theorem isFinite_abs (a : F) : (abs a).isFinite = a.isFinite := by
  cases a <;> rfl

theorem lt_fin (s t : Bool) (m n : Mag) : lt (.fin s m) (.fin t n) = decide (finUnits s m < finUnits t n) := rfl

theorem le_fin (s t : Bool) (m n : Mag) : le (.fin s m) (.fin t n) = decide (finUnits s m ≤ finUnits t n) := rfl

@[simp] theorem lt_nan_left (a : F) : lt .nan a = false := rfl

@[simp] theorem lt_nan_right (a : F) : lt a .nan = false := by
  cases a <;> rfl

@[simp] theorem le_nan_left (a : F) : le .nan a = false := rfl

@[simp] theorem le_nan_right (a : F) : le a .nan = false := by
  cases a <;> rfl

/-- Data that are not NaN are ordered by their rank. -/
theorem lt_iff {a b : F} : lt a b = true ↔ a ≠ .nan ∧ b ≠ .nan ∧ a.rank < b.rank := by
  cases a <;> cases b <;> simp [lt, isNaN]

theorem le_iff {a b : F} : le a b = true ↔ a ≠ .nan ∧ b ≠ .nan ∧ a.rank ≤ b.rank := by
  cases a <;> cases b <;> simp [le, isNaN]

/-- A clamp answers its operand or one of its bounds. -/
theorem clamp_cases (a lo hi : F) : clamp a lo hi = a ∨ clamp a lo hi = lo ∨ clamp a lo hi = hi := by
  unfold clamp max min
  split <;> split <;> simp

theorem toBits_fin_toNat (s : Bool) (m : Mag) : (toBits (.fin s m)).toNat = (if s then 2 ^ 31 else 0) + m.val := by
  have h := m.isLt
  show (BitVec.ofNat 32 _).toNat = _
  rw [BitVec.toNat_ofNat]
  split <;> omega

/-- A finite datum is read back from its word. -/
theorem ofBits_toBits {a : F} (h : a.isFinite = true) : ofBits a.toBits = a := by
  obtain ⟨s, m, rfl⟩ := isFinite_iff.1 h
  have hm := m.isLt
  have hn := toBits_fin_toNat s m
  have hs : (toBits (.fin s m)).getLsbD 31 = s := by
    rw [BitVec.getLsbD, Nat.testBit, hn, Nat.shiftRight_eq_div_pow]
    cases s
    · simp
      omega
    · have : (2 ^ 31 + m.val) / 2 ^ 31 = 1 := by omega
      simp only [if_true, this]
      rfl
  have hv : (toBits (.fin s m)).toNat % 2 ^ 31 = m.val := by
    rw [hn]
    split <;> omega
  unfold ofBits
  dsimp only
  rw [dif_pos (by omega), hs]
  simp only [hv]

@[simp] theorem toBits_zero : toBits .zero = 0 := by decide

end F

/-- What is not finite wraps to NaN (00_scope.md R20). -/
theorem F.wrap_nonfinite {x : F} (h : x.isFinite = false) : F.wrap x = .nan := by
  unfold F.wrap
  rw [if_neg (by simp [h])]

end Sys2Proof
end

