-- ==== Sys2Proof/Laws/Host.lean ====
section
/-! SUPPORT. What a host access can do, said once for each operation of the host port. -/

namespace Sys2Proof.Machine

/-- A word address holds an element of `BUF` exactly in the window. -/
theorem bufIndex_eq_some {c : Cfg} {a i : Nat} :
    bufIndex c a = some i ↔ a = bufBase + i ∧ i < c.maxBlkHw := by
  unfold bufIndex
  split
  · rw [Option.some.injEq]
    omega
  · constructor
    · intro h
      cases h
    · omega

/-- The parameter registers stand at 0x020 to 0x026. -/
theorem paramAt_range {a : Nat} {i : ParamIndex} (h : paramAt a = some i) : 0x020 ≤ a ∧ a ≤ 0x026 := by
  unfold paramAt at h
  split at h <;> first | omega | cases h

/-- What a write that is no command does. -/
theorem plainWrite_cases (addr : BitVec 22) (v : Word) (s : State) :
    (addr.toNat = 0x005 ∧ plainWrite addr v s = { s with arg0 := v })
    ∨ (∃ i, paramAt addr.toNat = some i ∧ plainWrite addr v s = paramWrite i v s)
    ∨ (∃ i, addr.toNat = bufBase + i ∧ i < s.cfg.maxBlkHw ∧ plainWrite addr v s = s.setBuf i v)
    ∨ plainWrite addr v s = s := by
  unfold plainWrite
  split
  · exact .inl ⟨‹_›, rfl⟩
  · split
    · exact .inr (.inl ⟨_, ‹_›, rfl⟩)
    · split
      · obtain ⟨h1, h2⟩ := bufIndex_eq_some.1 ‹_›
        exact .inr (.inr (.inl ⟨_, h1, h2, rfl⟩))
      · exact .inr (.inr (.inr rfl))

/-- What a write to a parameter does: refuse a datum that is not finite, else store its clamped value, counting it where
it lay outside [0, 1]. -/
theorem paramWrite_cases (i : ParamIndex) (u : Word) (s : State) :
    ((F.ofBits u).isFinite = false ∧ paramWrite i u s = raiseGuard .parameterOutOfRange s)
    ∨ ((F.ofBits u).isFinite = true ∧ outsideUnit (F.ofBits u) = true
        ∧ paramWrite i u s = storeParam i (clampUnit (F.ofBits u)) (raiseGuard .parameterOutOfRange s))
    ∨ ((F.ofBits u).isFinite = true ∧ outsideUnit (F.ofBits u) = false
        ∧ paramWrite i u s = storeParam i (clampUnit (F.ofBits u)) s) := by
  unfold paramWrite
  dsimp only
  cases hf : (F.ofBits u).isFinite
  · exact .inl ⟨rfl, rfl⟩
  · cases ho : outsideUnit (F.ofBits u)
    · exact .inr (.inr ⟨rfl, rfl, rfl⟩)
    · exact .inr (.inl ⟨rfl, rfl, rfl⟩)

/-- What a write does: a command, an illegal word, or a plain write. -/
theorem memWrite_cases (addr : BitVec 22) (v : Word) (s : State) :
    (addr.toNat = 0x000 ∧ ∃ i, decode v = .ok i ∧ memWrite addr v s = exec i s)
    ∨ (addr.toNat = 0x000 ∧ ∃ e, decode v = .error e ∧ memWrite addr v s = .next (refusedWith .illegal s))
    ∨ (addr.toNat ≠ 0x000 ∧ memWrite addr v s = .next (plainWrite addr v s)) := by
  unfold memWrite executeWord
  split
  · split
    · exact .inl ⟨‹_›, _, ‹_›, rfl⟩
    · exact .inr (.inl ⟨‹_›, _, ‹_›, by rw [finish_refused (by decide)]⟩)
  · exact .inr (.inr ⟨‹_›, rfl⟩)

/-- What an access can be: a change of the word the host holds, a write, no effect, or hardware reset. -/
theorem access_cases (a : HostAccess) (s : State) :
    (∃ w, access a s = .next { s with rdata := w })
    ∨ (∃ addr v, (a = .write addr v ∨ ∃ b, a = .busWrite b 4 v ∧ addr = BitVec.ofNat 22 (b.toNat / 4) ∧ b.toNat % 4 = 0)
        ∧ access a s = memWrite addr v s)
    ∨ access a s = .next s
    ∨ (a = .hardwareReset ∧ access a s = .next (hardwareReset s)) := by
  cases a with
  | read addr => exact .inl ⟨_, rfl⟩
  | write addr v => exact .inr (.inl ⟨addr, v, .inl rfl, rfl⟩)
  | busRead b size =>
    unfold access
    dsimp only
    split
    · exact .inl ⟨_, rfl⟩
    · exact .inl ⟨_, rfl⟩
  | busWrite b size v =>
    unfold access bridged
    dsimp only
    by_cases h : size = 4 ∧ b.toNat % 4 = 0
    · rw [if_pos h]
      obtain ⟨rfl, h⟩ := h
      exact .inr (.inl ⟨_, v, .inr ⟨b, rfl, rfl, h⟩, rfl⟩)
    · rw [if_neg h]
      exact .inr (.inr (.inl rfl))
  | hardwareReset => exact .inr (.inr (.inr ⟨rfl, rfl⟩))

end Sys2Proof.Machine
end

