-- ==== Sys2Proof/Laws/PerInstr.lean ====
section
/-! SUPPORT. One lemma per command about its encoding: the operand bits stay below the opcode byte, so the word holds
both side by side (30_encoding.md R111, R117). -/

namespace Sys2Proof.Laws.WordLayout

/-- The word of a well-formed command is its opcode byte over its operand bits, and the operands leave the byte alone. -/
def Statement (i : Instr) : Prop :=
  i.wellFormed = true → operandBits i < 2 ^ 24 ∧ (encode i).toNat = opcode i * 2 ^ 24 + operandBits i

theorem opcode_lt (i : Instr) : opcode i < 2 ^ 8 := by
  cases i <;> simp [opcode]

theorem of_bits {i : Instr} (hb : operandBits i < 2 ^ 24) :
    operandBits i < 2 ^ 24 ∧ (encode i).toNat = opcode i * 2 ^ 24 + operandBits i := by
  have ho := opcode_lt i
  refine ⟨hb, ?_⟩
  rw [encode, BitVec.toNat_ofNat]
  omega

theorem nop : Statement .nop := fun _ => of_bits (by decide)

theorem prepare (variant : Nat) (maxblk : Nat) : Statement (.prepare variant maxblk) := by
  intro h
  have hk : variant < 2 ^ 3 ∧ maxblk < 2 ^ 21 := by simpa [Instr.wellFormed] using h
  exact of_bits (show variant * 2 ^ 21 + maxblk < 2 ^ 24 by omega)

theorem reset : Statement .reset := fun _ => of_bits (by decide)

theorem process (n : Nat) : Statement (.process n) := by
  intro h
  have hk : n < 2 ^ 21 := by simpa [Instr.wellFormed] using h
  exact of_bits (show n < 2 ^ 24 by omega)

theorem frame : Statement .frame := fun _ => of_bits (by decide)

theorem push (k : Nat) : Statement (.push k) := by
  intro h
  have hk : k < 2 ^ 21 := by simpa [Instr.wellFormed] using h
  exact of_bits (show k < 2 ^ 24 by omega)

theorem extract : Statement .extract := fun _ => of_bits (by decide)

theorem loadx : Statement .loadx := fun _ => of_bits (by decide)

theorem bitrev : Statement .bitrev := fun _ => of_bits (by decide)

theorem bfly (inv : Bool) (stage : Nat) (q : Nat) : Statement (.bfly inv stage q) := by
  intro h
  have hk : stage < 2 ^ 4 ∧ q < 2 ^ 16 := by simpa [Instr.wellFormed] using h
  refine of_bits (show (if inv then 2 ^ 23 else 0) + stage * 2 ^ 16 + q < 2 ^ 24 from ?_)
  split <;> omega

theorem zim : Statement .zim := fun _ => of_bits (by decide)

theorem scaley : Statement .scaley := fun _ => of_bits (by decide)

theorem fftf : Statement .fftf := fun _ => of_bits (by decide)

theorem ffti : Statement .ffti := fun _ => of_bits (by decide)

theorem polar : Statement .polar := fun _ => of_bits (by decide)

theorem track : Statement .track := fun _ => of_bits (by decide)

theorem modify : Statement .modify := fun _ => of_bits (by decide)

theorem accum : Statement .accum := fun _ => of_bits (by decide)

theorem herm : Statement .herm := fun _ => of_bits (by decide)

theorem olaw : Statement .olaw := fun _ => of_bits (by decide)

theorem pop (k : Nat) : Statement (.pop k) := by
  intro h
  have hk : k < 2 ^ 21 := by simpa [Instr.wellFormed] using h
  exact of_bits (show k < 2 ^ 24 by omega)

end Sys2Proof.Laws.WordLayout
end

