-- ==== Sys2Proof/Tests/Slice0.lean ====
section
/-! SUPPORT. Tests of the model and witnesses of the statements' hypotheses. Expected values are those of
spec/95_test_vectors.md (the vector's name stands in the comment) and of the worked examples of the rules; words are
written from 30_encoding.md R111 and R114. -/

namespace Sys2Proof.Tests

open Sys2Proof.Machine

-- One theorem at a time: each would else wait in a thread of its own for the kernel.
set_option Elab.async false

/-! ### Helpers -/

/-- The build of 46_overlap_add.md section 4: N = 4, HA = 1, L = 8. -/
def four : Cfg := { Cfg.default with n := 4, ha := 1, l := 8, maxBlkHw := 16 }

/-- The build of most vectors: N = 8, HA = 2, L = 32. -/
def eight : Cfg := { Cfg.default with n := 8, ha := 2, l := 32, maxBlkHw := 16 }

/-- A memory from the words of its elements. -/
def arr (ws : List Nat) : Arr := ws.zipIdx.foldl (fun a w => Arr.set a w.2 (F.ofBits (BitVec.ofNat 32 w.1))) []

/-- The words of the first `n` elements of a memory. -/
def words (n : Nat) (a : Arr) : List Nat := (List.range n).map fun i => (Arr.get a i).toBits.toNat

/-- A datum from its word. -/
def f (w : Nat) : F := F.ofBits (BitVec.ofNat 32 w)

/-- A prepared engine of variant Stretch with nothing in it, MAXBLK 4. -/
def warm (c : Cfg) : State := { State.hardwareReset c with lstate := .warming, maxblk := 4, arg0 := 48000 }

/-- The state after a command. -/
def after (i : Instr) (s : State) : State :=
  match exec i s with
  | .next t => t
  | .fault _ => s
  | .refused _ => s

/-- The state after a host access. -/
def host (a : HostAccess) (s : State) : State :=
  match access a s with
  | .next t => t
  | .fault _ => s
  | .refused _ => s

/-! ### WellFormed refuses ill-formed terms, one for each check -/

theorem test_wf_prepare_variant : (Instr.prepare 8 1).wellFormed = false := by decide
theorem test_wf_prepare_maxblk : (Instr.prepare 0 0x200000).wellFormed = false := by decide
theorem test_wf_process : (Instr.process 0x200000).wellFormed = false := by decide
theorem test_wf_push : (Instr.push 0x200000).wellFormed = false := by decide
theorem test_wf_bfly_stage : (Instr.bfly true 16 0).wellFormed = false := by decide
theorem test_wf_bfly_q : (Instr.bfly false 1 0x10000).wellFormed = false := by decide
theorem test_wf_pop : (Instr.pop 0x200000).wellFormed = false := by decide
theorem test_wf_limits : (Instr.bfly true 15 0xFFFF).wellFormed = true ∧ (Instr.prepare 7 0x1FFFFF).wellFormed = true :=
  by decide

theorem test_cfg_builds : Cfg.default.wf = true ∧ four.wf = true ∧ eight.wf = true := by decide
theorem test_cfg_n_power : ({ eight with n := 6 } : Cfg).wf = false := by decide
theorem test_cfg_n_low : ({ eight with n := 2, ha := 1 } : Cfg).wf = false := by decide
theorem test_cfg_n_high : ({ eight with n := 65536, l := 1000000 } : Cfg).wf = false := by decide
theorem test_cfg_ha_low : ({ eight with ha := 0 } : Cfg).wf = false := by decide
theorem test_cfg_ha_high : ({ eight with ha := 9, l := 100 } : Cfg).wf = false := by decide
theorem test_cfg_stretch_low : ({ eight with maxStretch := 0 } : Cfg).wf = false := by decide
theorem test_cfg_stretch_high : ({ eight with maxStretch := 70000, l := 1000000 } : Cfg).wf = false := by decide
theorem test_cfg_l_twice : ({ eight with l := 15, maxStretch := 1 } : Cfg).wf = false := by decide
theorem test_cfg_l_hop : ({ eight with l := 16, maxStretch := 5 } : Cfg).wf = false := by decide
theorem test_cfg_buf_low : ({ eight with maxBlkHw := 0 } : Cfg).wf = false := by decide
theorem test_cfg_buf_high : ({ eight with maxBlkHw := 0x200000 } : Cfg).wf = false := by decide
theorem test_cfg_wa_length : ({ four with wa := .table [.one] } : Cfg).wf = false := by decide
theorem test_cfg_wa_finite : ({ four with wa := .table [.one, .nan, .one, .one] } : Cfg).wf = false := by decide
theorem test_cfg_ws_length : ({ four with ws := .table [.one] } : Cfg).wf = false := by decide
theorem test_cfg_ws_finite : ({ four with ws := .table [.one, .inf false, .one, .one] } : Cfg).wf = false := by decide
theorem test_cfg_ws_sign : ({ four with ws := .table [.one, .neg .one, .one, .one] } : Cfg).wf = false := by decide
theorem test_cfg_kola : ({ eight with kola := .zero } : Cfg).wf = false ∧ ({ eight with kola := .inf false } : Cfg).wf = false :=
  by decide
theorem test_cfg_eps : ({ eight with epsEnv := .neg .one } : Cfg).wf = false ∧ ({ eight with epsEnv := .nan } : Cfg).wf = false :=
  by decide
theorem test_cfg_snap : ({ eight with snapW := .half } : Cfg).wf = false ∧ ({ eight with snapW := .neg .one } : Cfg).wf = false
    ∧ ({ eight with snapW := .nan } : Cfg).wf = false := by decide
theorem test_cfg_seed : ({ eight with seed := 0 } : Cfg).wf = false := by decide

/-! ### Decoding words written from R111 and R114 (DE1, DE2, DE3) -/

theorem test_decode_facade : decode 0x00000000 = .ok .nop ∧ decode 0x01A00200 = .ok (.prepare 5 512)
    ∧ decode 0x01601001 = .ok (.prepare 3 4097) ∧ decode 0x02000000 = .ok .reset
    ∧ decode 0x031FFFFF = .ok (.process 2097151) ∧ decode 0x04000000 = .ok .frame := by decide
theorem test_decode_frame_buffer : decode 0x1000000F = .ok (.push 15) ∧ decode 0x11000000 = .ok .extract := by decide
theorem test_decode_transform : decode 0x20000000 = .ok .loadx ∧ decode 0x21000000 = .ok .bitrev
    ∧ decode 0x22830001 = .ok (.bfly true 3 1) ∧ decode 0x220F3FFF = .ok (.bfly false 15 16383)
    ∧ decode 0x23000000 = .ok .zim ∧ decode 0x24000000 = .ok .scaley ∧ decode 0x25000000 = .ok .fftf
    ∧ decode 0x26000000 = .ok .ffti := by decide
theorem test_decode_tracker : decode 0x30000000 = .ok .polar ∧ decode 0x31000000 = .ok .track := by decide
theorem test_decode_modifier : decode 0x40000000 = .ok .modify := by decide
theorem test_decode_rotator : decode 0x50000000 = .ok .accum ∧ decode 0x51000000 = .ok .herm := by decide
theorem test_decode_overlap_add : decode 0x60000000 = .ok .olaw ∧ decode 0x6100000F = .ok (.pop 15) := by decide
theorem test_decode_zero_fields : decode 0x00000001 = .error .nonZeroField ∧ decode 0x02000100 = .error .nonZeroField
    ∧ decode 0x03200001 = .error .nonZeroField ∧ decode 0x10200000 = .error .nonZeroField
    ∧ decode 0x22130000 = .error .nonZeroField ∧ decode 0x22400000 = .error .nonZeroField := by decide
theorem test_decode_reserved : decode 0x0F000000 = .error .reservedOpcode ∧ decode 0x27000000 = .error .reservedOpcode
    ∧ decode 0x62000000 = .error .reservedOpcode ∧ decode 0xFFFFFFFF = .error .reservedOpcode := by decide

/-! ### Numerics (NP1 to NP5) -/

theorem test_wrap : [0x40600000, 0xC0600000, 0x42C80000, 0x40490FDB, 0xC0490FDB, 0x4A800000, 0xCA800000].map
    (fun w => (F.wrap (f w)).toBits) =
    [0xC0321FB6, 0x40321FB6, 0xBF07ED80, 0x40490FDB, 0x40490FDB, 0x3FA00000, 0xBFA00000] := by decide +kernel
theorem test_rhaz : [0x40200000, 0xC0200000, 0x3F000000, 0xBF000000].map (fun w => F.rhaz (f w)) = [3, -3, 1, -1] := by
  decide +kernel
theorem test_bitrev : (List.range 8).map (bitrev 3) = [0, 4, 2, 6, 1, 5, 3, 7] := by decide
theorem test_twiddles : (List.range 4).map (fun t => (eight.twc t).toBits) = [0x3F800000, 0x3F3504F3, 0, 0xBF3504F3]
    ∧ (List.range 4).map (fun t => (eight.tws t).toBits) = [0, 0x3F3504F3, 0x3F800000, 0x3F3504F3] := by decide +kernel
theorem test_frequency_roms :
    (List.range 5).map (fun k => (eight.omega k).toBits) = [0, 0x3F490FDB, 0x3FC90FDB, 0x4016CBE4, 0x40490FDB]
    ∧ (List.range 5).map (fun k => (eight.expAdv k).toBits) = [0, 0x3FC90FDB, 0x40490FDB, 0x4096CBE4, 0] := by
  decide +kernel
theorem test_hann : (List.range 8).map (fun j => (eight.waAt j).toBits) =
    [0, 0x3E15F61A, 0x3F000000, 0x3F5A827A, 0x3F800000, 0x3F5A827A, 0x3F000000, 0x3E15F61A] := by decide +kernel
theorem test_num_ref : (NumRef.sin .pi).toBits = 0xB3BBBD2E ∧ (NumRef.cos (f 0x3FC90FDB)).toBits = 0xB33BBD2E
    ∧ (NumRef.atan2 .one (f 0xC0400000)).toBits = 0x4034784B ∧ (NumRef.exp2 .half).toBits = 0x3FB504F3
    ∧ (F.sqrt (f 0x41200000)).toBits = 0x404A62C2 := by decide +kernel
theorem test_mappings : ([0x00000000, 0x3E800000, 0x3EF80000, 0x3F400000, 0x3F800000].map
      fun w => (mapStretch Cfg.default (f w)).toBits) = [0x3E800000, 0x3F200000, 0x3F800000, 0x40200000, 0x40800000]
    ∧ (mapPitch Cfg.default (f 0x3E800000)).toBits = 0x3F3504F3
    ∧ mapBinFraction Cfg.default (f 0x3A000000) = 1 ∧ mapBinFraction Cfg.default (f 0x39800000) = 0 := by decide +kernel

/-! ### Commands, one step each -/

/-- R223's example. -/
theorem test_nop : (after .nop { warm eight with cseq := 5, result := .badArg, cmderr := true }).cseq = 6
    ∧ (after .nop { warm eight with cseq := 5, result := .badArg, cmderr := true }).cmderr = true := by decide
/-- R224's example, on the default build. -/
theorem test_prepare : memRead (after (.prepare 1 512) { State.reset with arg0 := 48000 }) 0x001 = 0x21
    ∧ memRead (after (.prepare 1 512) { State.reset with arg0 := 48000 }) 0x006 = 48000 := by decide
theorem test_prepare_fails : memRead (after (.prepare 5 512) { State.reset with arg0 := 48000 }) 0x001 = 0x10
    ∧ memRead (after (.prepare 5 512) { State.reset with arg0 := 48000 }) 0x002 = 4 := by decide
/-- R225's example. -/
theorem test_reset : memRead (after .reset { warm eight with lstate := .steady, variant := .pitchShift, hs := 7 }) 0x001
    = 0x20 ∧ (after .reset { warm eight with lstate := .steady, hs := 7 }).hs = 2 := by decide
/-- R222's example. -/
def oneSample : State := after (.process 1) ((warm four).setBuf 0 0x3F800000)
theorem test_process : oneSample.framecnt = 1 ∧ oneSample.produced = 1 ∧ oneSample.avail = 1 ∧ oneSample.preroll = 3
    ∧ oneSample.warmz = 1 ∧ oneSample.bufWord 0 = 0 := by decide +kernel
theorem test_frame : (after .frame (warm eight)).framecnt = 1 ∧ (after .frame (warm eight)).wpos = 2 := by
  decide +kernel
/-- FB1, FB2. -/
theorem test_push : words 4 (after (.push 0) ((warm { four with ha := 2 }).setBuf 0 0x3F800000)).ring = [0x3F800000, 0, 0, 0]
    ∧ (after (.push 0) { warm { four with ha := 2 } with hopcnt := 2, rwp := 3 }).hopcnt = 1 := by decide +kernel
/-- FB4. -/
theorem test_extract : words 4 (after .extract { warm four with
      ring := arr [0x3F800000, 0x40000000, 0x40400000, 0x40800000], rwp := 2 }).frame
    = [0, 0x40000000, 0x3F800000, 0x3F800000] := by decide +kernel
/-- FT1. -/
theorem test_loadx : words 4 (after .loadx { warm four with
      frame := arr [0x3F800000, 0x40000000, 0x40400000, 0x40800000], xi := arr [1, 1, 1, 1] }).xr
    = [0x3F800000, 0x40400000, 0x40000000, 0x40800000] := by decide +kernel
/-- FT2. -/
theorem test_bitrev_command : words 4 (after .bitrev { warm four with xi := arr [0, 0x40000000, 0, 0xC0000000] }).xi
    = [0, 0, 0x40000000, 0xC0000000] := by decide +kernel
/-- The workspace of FT3: XR[n] = n, XI[n] = 8 + n. -/
def ramp : State := { warm eight with
  xr := arr [0, 0x3F800000, 0x40000000, 0x40400000, 0x40800000, 0x40A00000, 0x40C00000, 0x40E00000]
  xi := arr [0x41000000, 0x41100000, 0x41200000, 0x41300000, 0x41400000, 0x41500000, 0x41600000, 0x41700000] }
theorem test_bfly_forward : words 8 (after (.bfly false 3 1) ramp).xr
    = [0, 0x415BA591, 0x40000000, 0x40400000, 0x40800000, 0xC13BA591, 0x40C00000, 0x40E00000]
    ∧ words 8 (after (.bfly false 3 1) ramp).xi
    = [0x41000000, 0x416A8279, 0x41200000, 0x41300000, 0x41400000, 0x4055F61C, 0x41600000, 0x41700000] := by
  decide +kernel
theorem test_bfly_inverse : words 8 (after (.bfly true 2 3) ramp).xr
    = [0, 0x3F800000, 0x40000000, 0x40400000, 0x40800000, 0xC1200000, 0x40C00000, 0x41A00000]
    ∧ (after (.bfly true 4 0) ramp).result = .badArg := by decide +kernel
/-- FT6. -/
theorem test_zim : words 8 (after .zim { warm eight with
      xi := arr [0x40E00000, 1, 2, 3, 0x7FC00000, 5, 6, 7] }).xi = [0, 1, 2, 3, 0, 5, 6, 7] := by decide +kernel
theorem test_scaley : words 4 (after .scaley { warm four with
      xr := arr [0x40800000, 0x41000000, 0x41400000, 0x41800000] }).y
    = [0x3F800000, 0x40000000, 0x40400000, 0x40800000] := by decide +kernel
/-- FT4, N = 8. -/
def forward : State := after .fftf { warm eight with
  frame := arr [0x3F800000, 0x40000000, 0x40400000, 0x40800000, 0x40A00000, 0x40C00000, 0x40E00000, 0x41000000] }
theorem test_fftf : words 5 forward.xr = [0x42100000, 0xC0800000, 0xC0800000, 0xC0800000, 0xC0800000]
    ∧ words 4 forward.xi = [0, 0x411A827A, 0x40800000, 0x3FD413CC] := by decide +kernel
/-- FT5, N = 8. -/
theorem test_ffti : words 8 (after .ffti forward).y
    = [0x3F800000, 0x40000000, 0x40400000, 0x40800000, 0x40A00000, 0x40C00000, 0x40E00000, 0x41000000] := by
  decide +kernel
/-- PT1. -/
def polar8 : State := after .polar { warm eight with
  xr := arr [0x40400000, 0, 0xBF800000, 0x3F800000, 0xC0000000]
  xi := arr [0, 0x40000000, 0, 0xBF800000, 0] }
theorem test_polar : words 5 polar8.mag = [0x40400000, 0x40000000, 0x3F800000, 0x3FB504F3, 0x40000000]
    ∧ words 5 polar8.ph = [0, 0x3FC90FDB, 0x40490FDB, 0xBF490FDB, 0x40490FDB] := by decide +kernel
/-- R175, examples 1 and 2. -/
theorem test_track : words 5 (after .track { warm eight with
      lastph := arr [0, 0x3F000000, 0x3F800000, 0xBF800000, 0]
      ph := arr [0, 0x400CCCCD, 0xC0000000, 0x40400000, 0x40490FDB] }).tif
    = [0, 0x3F59999A, 0x3FD21FB5, 0x40000000, 0x4096CBE4] := by decide +kernel
theorem test_track_clamps : words 5 (after .track { warm eight with ph := arr [0x3F800000, 0xBFDB2FEC] }).tif
    = [0, 0x3FC90FDB, 0x40490FDB, 0x40490FDB, 0x40490FDB] := by decide +kernel
/-- The analysis frame of 44_modifier.md section 3. -/
def analysed : State := { warm eight with
  mag := arr [0x3F800000, 0x40000000, 0x40400000, 0x40800000, 0x40A00000]
  tif := arr [0, 0x3F4CCCCD, 0x3FCCCCCD, 0x4019999A, 0x40466666]
  ph := arr [0x40490FDB] }
/-- R189, examples 1 and 3. -/
theorem test_modify_stretch :
    (after .modify { analysed with act := { analysed.act with stretch := f 0x3FC00000 } }).hs = 3
    ∧ words 1 (after .modify analysed).synph = [0x40490FDB] := by decide +kernel
theorem test_modify_pitch : words 5 (after .modify { analysed with
      variant := .pitchShift, act := { analysed.act with pitch := .half } }).smag
    = [0x3F800000, 0x40A00000, 0x41100000, 0, 0] := by decide +kernel
/-- R206, example 1. -/
theorem test_accum : words 5 (after .accum { warm eight with
      hs := 3, sif := arr [0, 0x3F4CCCCD, 0x3FCCCCCD, 0x4019999A, 0x40466666]
      synph := arr [0x40490FDB, 0, 0x3F800000, 0xC0400000, 0x40400000] }).synph
    = [0x40490FDB, 0x4019999A, 0xBEF76410, 0xC00552E8, 0xBE8861E0] := by decide +kernel
/-- R206, example 3. -/
theorem test_herm : words 8 (after .herm { warm eight with
      smag := arr [0x3F800000, 0x40000000, 0x40400000, 0x40800000, 0x40A00000]
      synph := arr [0x40490FDB, 0, 0x3FC90FDB, 0xBFC90FDB, 0x40490FDB] }).xi
    = [0, 0, 0x40400000, 0xC0800000, 0, 0x40800000, 0xC0400000, 0x80000000] := by decide +kernel
/-- R206, example 5. -/
def smeared : State := after .herm { warm eight with
  variant := .smear, act := { (warm eight).act with smear := .half }
  smag := arr [0x3F800000, 0x3F800000, 0x3F800000, 0x3F800000, 0x3F800000] }
theorem test_herm_smear : smeared.prng = 0x7BB98F3A
    ∧ words 5 smeared.phi = [0, 0x3F7E9EA0, 0xBEC7ECBE, 0x3FC258B6, 0] := by decide +kernel
/-- The ring of 46_overlap_add.md section 4, example 1. -/
def ring4 : State := { warm four with
  preroll := 0, rpos := 5, avail := 1, wpos := 6, y := arr [0x3F800000, 0x40000000, 0x40400000, 0x40800000]
  ola := arr [0, 0, 0, 0, 0, 0x3F400000, 0x3F000000, 0x3E800000]
  env := arr [0, 0, 0, 0, 0, 0x40000000, 0x3FC00000, 0x3F000000] }
theorem test_olaw : words 8 (after .olaw ring4).ola
      = [0x40400000, 0x40000000, 0, 0, 0, 0x3F400000, 0x3F000000, 0x3FA00000]
    ∧ words 8 (after .olaw ring4).env = [0x3F800000, 0x3F000000, 0, 0, 0, 0x40000000, 0x3FC00000, 0x3F800000] := by
  decide +kernel
/-- Section 4, example 4. -/
theorem test_olaw_not_finite : (after .olaw { warm four with y := arr [0x7FC00000, 0x3F800000] }).diagNi = 1
    ∧ (after .olaw { warm four with y := arr [0x7FC00000, 0x3F800000] }).ola = [] := by decide +kernel
/-- Section 4, example 2. -/
theorem test_pop : (after (.pop 3) ring4).bufWord 3 = 0x3F000000 ∧ (after (.pop 3) ring4).rpos = 6 := by decide +kernel
/-- Section 4, example 6. -/
theorem test_pop_overflow : (after (.pop 0) { ring4 with ola := arr [0, 0, 0, 0, 0, 0x7F800000] }).bufWord 0 = 0
    ∧ (after (.pop 0) { ring4 with ola := arr [0, 0, 0, 0, 0, 0x7F800000] }).diagNi = 1 := by decide +kernel

/-! ### Host accesses -/

/-- R230: a NaN is dropped, a value above 1 clamped, both counted. -/
theorem test_param_write : (host (.write 0x020 0x7FC00000) (warm eight)).diagPor = 1
    ∧ (host (.write 0x020 0x40000000) (warm eight)).pub.stretch = .four
    ∧ (host (.write 0x022 0x80000000) (warm eight)).param.freeze = .zero := by decide +kernel
/-- RG1, RG2. -/
theorem test_registers : memRead (State.hardwareReset eight) 0x003 = 14 ∧ memRead (State.hardwareReset eight) 0x00F = 2
    ∧ memRead (host (.write 0x1003 0x7FC00001) (warm eight)) 0x1003 = 0x7FC00001
    ∧ memRead (warm eight) 0x3FFFFF = 0 := by decide +kernel
/-- R83. -/
theorem test_bridge : (host (.busWrite 0x14 4 7) (warm eight)).arg0 = 7 ∧ (host (.busWrite 0x14 2 7) (warm eight)).arg0 = 48000
    ∧ (host (.busWrite 0x16 4 7) (warm eight)).arg0 = 48000 := by decide
/-- The first instruction after reset: the step runs the word it is given. -/
theorem test_fetch : ∃ t, step (State.reset.withFetchWord 32 0x05000000) = .next t ∧ t.result = .illegal ∧ t.cseq = 1 :=
  ⟨_, rfl, rfl, rfl⟩

/-! ### Witnesses: states and operands that meet the hypotheses of a statement, at the edges of its clauses -/

/-- A state in mid-stream, with an access pending. -/
def streaming : State := { ring4 with pending := [commandWrite 0x60000000] }

/-- The default window is within the cap, and so is the envelope of that state. -/
theorem test_window_bounded : streaming.cfg.WindowBounded := by decide +kernel
theorem test_streaming_envelope : streaming.EnvelopeBounded :=
  ⟨by decide +kernel, by decide +kernel, by decide +kernel⟩

theorem test_streaming_inv : streaming.Inv where
  build := by decide
  rwp := by decide
  hopcnt := by decide
  hsLow := by decide
  hsHigh := by decide
  rpos := by decide
  wpos := by decide
  avail := by decide
  preroll := by decide
  prng := by decide
  maxblk := by decide
  param := by decide
  pub := by decide +kernel
  act := ⟨by decide, by decide, by decide, by decide, by decide, by decide⟩
  memories := ⟨by decide, by decide, by decide, by decide, by decide, by decide, by decide, by decide, by decide,
    by decide, by decide, by decide, by decide, by decide, by decide +kernel, by decide +kernel, by decide +kernel,
    by decide, by decide⟩
  streaming := fun _ => ⟨by decide, by decide, by decide, by decide, by decide, by decide +kernel, fun _ => test_streaming_envelope,
    by decide +kernel, by decide +kernel⟩

theorem test_streaming_phases : streaming.PhaseInv := fun _ =>
  ⟨by decide +kernel, by decide +kernel, by decide +kernel, by decide +kernel, by decide +kernel, by decide +kernel⟩

theorem test_hyp_encoded_command : (Instr.bfly true 15 0xFFFF).wellFormed = true := by decide
theorem test_hyp_decoded_word : decode 0x01E00000 = .ok (.prepare 7 0) := by decide
theorem test_hyp_illegal_word : (∃ e, decode 0x0F000000 = .error e) ∧ (∃ e, decode 0x61200000 = .error e)
    ∧ (∃ e, decode 0x22100000 = .error e) ∧ (∃ e, decode 0x60000001 = .error e) :=
  ⟨⟨_, rfl⟩, ⟨_, rfl⟩, ⟨_, rfl⟩, ⟨_, rfl⟩⟩
theorem test_hyp_step_runs : streaming.cfg.wf = true ∧ streaming.pending = commandWrite 0x60000000 :: []
    ∧ decode 0x60000000 = .ok .olaw ∧ Instr.olaw.wellFormed = true := ⟨by decide, rfl, rfl, rfl⟩
theorem test_hyp_broken_build : streaming.cfg.wf = true
    ∧ ({ streaming with cfg := { four with seed := 0 } } : State).cfg.wf = false := by decide
theorem test_hyp_step_next : ∃ t, step streaming = .next t := ⟨_, rfl⟩
theorem test_hyp_refused_command : (∃ t, exec (.push 4) (warm eight) = .next t ∧ t.result ≠ .ok)
    ∧ (∃ t, exec (.prepare 5 1) (warm eight) = .next t ∧ t.result ≠ .ok) :=
  ⟨⟨_, rfl, by decide⟩, ⟨_, rfl, by decide⟩⟩
theorem test_hyp_refusals : State.reset.lstate = .cold ∧ needsPrepared (.process 0) = true ∧ (warm eight).lstate ≠ .cold
    ∧ (warm eight).maxblk.toNat < 5 ∧ (warm eight).maxblk.toNat ≤ 4 ∧ (warm eight).cfg.log2n < 4
    ∧ (warm eight).cfg.h ≤ 4 := by decide
theorem test_hyp_lifecycle_prepare : (host (commandWrite 0x01000001) State.reset).lstate = .cold
    ∧ (host (commandWrite 0x01000001) { State.reset with arg0 := 1 }).lstate = .warming
    ∧ (host (commandWrite 0x01A00001) (warm eight)).lstate = .cold := by decide
theorem test_hyp_lifecycle_others : (host .hardwareReset (warm eight)).lstate = .cold
    ∧ (host (.busWrite 0 4 0x02000000) (warm eight)).lstate = .cold
    ∧ (host (commandWrite 0x60000000) { warm four with produced := 6 }).lstate = .steady := by decide +kernel
theorem test_hyp_other_commands : (∀ k, Instr.zim ≠ .pop k) ∧ (∀ n, Instr.zim ≠ .process n)
    ∧ ∃ t, exec .zim ring4 = .next t := by
  refine ⟨fun _ h => ?_, fun _ h => ?_, _, rfl⟩ <;> cases h
theorem test_hyp_counters : (∃ t, access (.write 0x020 0x7FC00000) (warm eight) = .next t)
    ∧ HostAccess.write 0x020 0x7FC00000 ≠ .hardwareReset ∧ ∃ t, exec .frame (warm eight) = .next t :=
  ⟨⟨_, rfl⟩, by decide, _, rfl⟩
theorem test_hyp_prepare : (warm eight).cfg.wf = true ∧ Variant.smear.code = 4 ∧ 1 ≤ 16 ∧ 16 ≤ (warm eight).cfg.maxBlkHw
    ∧ (warm eight).arg0 ≠ 0 := by decide
theorem test_hyp_prepare_fails : 4 < 5 ∧ (warm eight).cfg.maxBlkHw < 17 ∧ State.reset.arg0 = 0 := by decide
theorem test_hyp_push_draws : (warm eight).bufWritten 3 = false ∧ (warm eight).draws = 0
    ∧ (after (.push 3) (warm eight)).draws = 1 := by decide +kernel
theorem test_hyp_push : (warm eight).lstate ≠ .cold ∧ 3 < (warm eight).maxblk.toNat
    ∧ ((warm eight).setBuf 3 7).bufWritten 3 = true ∧ (warm eight).bufWritten 3 = false := by decide +kernel
theorem test_hyp_frame_ready : (warm eight).lstate ≠ .cold ∧ (warm eight).hopcnt = 0 ∧ 1 ≤ (warm eight).cfg.ha
    ∧ (∀ i ∈ [0, 3], i < (warm eight).maxblk.toNat)
    ∧ (execAll ([0, 3].map .push) (warm eight)).isSome = true := ⟨by decide, rfl, by decide, by decide, rfl⟩
theorem test_hyp_prepared_build : (warm eight).cfg.wf = true ∧ (warm eight).lstate ≠ .cold := by decide
theorem test_hyp_bfly : (warm eight).lstate ≠ .cold ∧ 1 ≤ 3 ∧ 3 ≤ (warm eight).cfg.log2n ∧ 3 < 2 ^ (3 - 1)
    ∧ 0 * 2 ^ (3 - 1) + 3 < (warm eight).cfg.h := by decide
theorem test_hyp_stage_order : ∃ t u t' u', exec (.bfly false 2 0) ramp = .next t ∧ exec (.bfly false 2 3) t = .next u
    ∧ exec (.bfly false 2 3) ramp = .next t' ∧ exec (.bfly false 2 0) t' = .next u' ∧ u.result = .ok
    ∧ u'.result = .ok := ⟨_, _, _, _, rfl, rfl, rfl, rfl, rfl, rfl⟩
theorem test_hyp_polar : Arr.get (warm eight).xr 4 ≠ .nan ∧ Arr.get (warm eight).xi 4 ≠ .nan ∧ 4 ≤ (warm eight).cfg.h := by
  decide
theorem test_hyp_modify_accepts : analysed.lstate ≠ .cold ∧ ¬(analysed.variant = .freeze ∧ analysed.act.freeze = true)
    ∧ (Arr.get analysed.ph 0).isFinite = true
    ∧ ∀ k, k ≤ 4 → (Arr.get analysed.mag k).isFinite = true ∧ (Arr.get analysed.tif k).isFinite = true := by
  decide +kernel
/-- A frozen state. -/
def iced : State := { analysed with variant := .freeze, act := { analysed.act with freeze := true } }
theorem test_hyp_modify_holds : iced.lstate ≠ .cold ∧ iced.variant = .freeze ∧ iced.act.freeze = true
    ∧ (Arr.get ({ analysed with mag := arr [0, 0, 0, 0, 0x7F800000] } : State).mag 4).isFinite = false := by
  decide +kernel
theorem test_hyp_modify_remaps : ({ analysed with variant := .pitchShift } : State).variant ≠ .gate
    ∧ analysed.lstate ≠ .cold := by decide
theorem test_hyp_modify_passes : streaming.lstate ≠ .cold ∧ streaming.variant ≠ .gate ∧ streaming.variant ≠ .pitchShift := by
  decide
theorem test_hyp_modify_gates : ({ streaming with variant := .gate } : State).Inv
    ∧ ({ streaming with variant := .gate } : State).lstate ≠ .cold := by
  refine ⟨?_, by decide⟩
  exact { test_streaming_inv with
    memories := { test_streaming_inv.memories with }
    streaming := fun h => { test_streaming_inv.streaming h with envelope := fun _ => { test_streaming_envelope with } } }
theorem test_hyp_hop_clamp_edges : stretchHop four (f 0x3E800000) = 1 ∧ stretchHop four .four = 4
    ∧ stretchHop four (f 0x41000000) = 4 := by decide +kernel
theorem test_hyp_herm_bounded : ∀ k, k ≤ streaming.cfg.h → (Arr.get streaming.smag k).isFinite = true := by decide
theorem test_hyp_draw : (0xFFFFFFFF : Word) ≠ 0 := by decide
/-- 46_overlap_add.md section 4, example 3: one cell too many, and exactly enough. -/
theorem test_hyp_olaw_room : four.l < 5 + max four.n 4 ∧ 4 + max four.n 4 ≤ four.l := by decide
theorem test_hyp_olaw_adds : ring4.cfg.wf = true ∧ ring4.lstate ≠ .cold ∧ ring4.avail + max ring4.cfg.n ring4.hs ≤ ring4.cfg.l
    ∧ ∀ j, j < ring4.cfg.n → (F.mul (Arr.get ring4.y j) (ring4.cfg.wsAt j)).isFinite = true := by decide +kernel
theorem test_hyp_olaw_skips : (F.mul (Arr.get (arr [0x7FC00000]) 0) (four.wsAt 0)).isFinite = false
    ∧ (F.mul (Arr.get (arr [0, 0, 0, 0x7F800000]) 3) (four.wsAt 3)).isFinite = false := by decide +kernel
theorem test_hyp_pop_zero : 0 < (warm four).preroll ∧ ({ ring4 with avail := 0 } : State).avail = 0
    ∧ 3 < ring4.maxblk.toNat := by decide
theorem test_hyp_pop_cell : ring4.lstate ≠ .cold ∧ ring4.preroll = 0 ∧ 0 < ring4.avail := by decide
theorem test_hyp_output : (∃ t, exec (.pop 3) ring4 = .next t ∧ t.result = .ok)
    ∧ (∃ t, exec (.process 4) ring4 = .next t ∧ t.result = .ok) := ⟨⟨_, rfl, rfl⟩, ⟨_, rfl, rfl⟩⟩
theorem test_hyp_process : (warm four).lstate ≠ .cold ∧ 3 < (warm four).maxblk.toNat := by decide
theorem test_hyp_unit_hop_stretch : (warm eight).pub.stretch = .one
    ∧ ∃ p, exec (.prepare 0 1) (warm eight) = .next p ∧ p.result = .ok
    ∧ (execAll ([1, 0].map .process) p).isSome = true :=
  ⟨rfl, after (.prepare 0 1) (warm eight), rfl, rfl, by decide +kernel⟩
theorem test_hyp_unit_hop : (warm eight).cfg.wf = true ∧ ∃ p, exec (.prepare 1 1) (warm eight) = .next p ∧ p.result = .ok
    ∧ (∀ n ∈ [1, 0], n ≤ 1) ∧ (execAll ([1, 0].map .process) p).isSome = true :=
  ⟨by decide, after (.prepare 1 1) (warm eight), rfl, rfl, by decide, by decide +kernel⟩
theorem test_hyp_prepared_runs : warm four ≠ ring4 ∧ (warm four).cfg = ring4.cfg ∧ (warm four).pub = ring4.pub
    ∧ (warm four).arg0 = ring4.arg0 ∧ (warm four).buf = ring4.buf ∧ (warm four).draws = ring4.draws
    ∧ ∃ p p', exec (.prepare 4 2) (warm four) = .next p ∧ exec (.prepare 4 2) ring4 = .next p' ∧ p.result = .ok
    ∧ (performAll [.write 0x1000 0x3F800000, commandWrite 0x03000001] p).isSome = true
    ∧ (performAll [.write 0x1000 0x3F800000, commandWrite 0x03000001] p').isSome = true :=
  ⟨by decide +kernel, rfl, rfl, rfl, rfl, rfl, after (.prepare 4 2) (warm four), after (.prepare 4 2) ring4, rfl, rfl,
    rfl, by decide +kernel, by decide +kernel⟩
theorem test_hyp_registers : eight.maxBlkHw ≤ 2 ^ 21 - 1 ∧ 15 < eight.maxBlkHw ∧ 0x013 < 0x014 ∧ 0x014 < 0x020
    ∧ 0x026 < 0x027 ∧ 0x0FFF < 0x1000 ∧ 0x1000 + eight.maxBlkHw ≤ 0x1010 := by decide
theorem test_hyp_param_write : paramAt 0x020 = some .stretch ∧ paramAt 0x026 = some .smear
    ∧ (F.ofBits 0x7F800000).isFinite = false ∧ (F.ofBits 0xBF800000).isFinite = true := by decide
/-- The edges of the curves: the snap band's edge, both ends, and either side of 0.5 (R231). -/
theorem test_hyp_curves : [0x00000000, 0x3E800000, 0x3EF80000, 0x3F400000, 0x3F800000].map
      (fun w => (stretchCurve Cfg.default (f w)).toBits) = [0x3E800000, 0x3F200000, 0x3F800000, 0x40200000, 0x40800000]
    ∧ [0x00000000, 0x3E800000, 0x3F000000, 0x3F400000, 0x3F800000].map
      (fun w => (pitchCurve Cfg.default (f w)).toBits) = [0x3F000000, 0x3F3504F3, 0x3F800000, 0x3FB504F3, 0x40000000] := by
  decide +kernel
theorem test_hyp_mappings : Cfg.default.wf = true ∧ ParamRegs.reset.isUnit = true := by decide
theorem test_hyp_bridge : (4 = 4 ∧ (0xFFFFFC : BitVec 24).toNat % 4 = 0) ∧ 2 ≠ 4 ∧ (0x000002 : BitVec 24).toNat % 4 ≠ 0 := by
  decide
theorem test_hyp_rounding : 0 < 2 ∧ F.round true 3 2 = .fin true 2 ∧ F.round true 5 2 = .fin true 2
    ∧ F.round true ((2 ^ 25 - 1) * 2 ^ 252) 1 = .inf true
    ∧ F.round true ((2 ^ 25 - 1) * 2 ^ 252 - 1) 1 = .fin true ⟨0x7F7FFFFF, by decide⟩ := by decide +kernel
theorem test_hyp_wrap : (f 0x4A800000).isFinite = true ∧ F.le (F.abs (f 0xCA800000)) (F.ofInt (2 ^ 22)) = true
    ∧ (f 0x7FC00000).isFinite = false ∧ (f 0xFF800000).isFinite = false := by decide +kernel
theorem test_hyp_numeric : (f 0x7F7FFFFF).isFinite = true ∧ (f 0x80000000).isZero = true ∧ f 0xFF800000 ≠ .nan
    ∧ F.lt .zero (f 0x00000001) = true ∧ F.lt (f 0x80000001) .zero = true
    ∧ F.within (F.neg .one) .one (f 0xBF800000) = true := by decide +kernel

end Sys2Proof.Tests
end

section
/-! SUPPORT. Narrowing (00_scope.md R14): the two neighbours of an exact magnitude, which of them is chosen, and how far
a narrowed datum lies from the exact one. -/

namespace Sys2Proof

namespace F

/-! ### The value of a magnitude's bits -/

/-- `Mag.units` on every natural number: the bit patterns of binary32 with an exponent that does not end, so that the
neighbour above a magnitude has a value too where it is no finite datum. -/
def bitUnits (b : Nat) : Nat :=
  if b / 2 ^ 23 = 0 then b % 2 ^ 23 else (2 ^ 23 + b % 2 ^ 23) * 2 ^ (b / 2 ^ 23 - 1)

theorem bitUnits_val (m : Mag) : bitUnits m.val = m.units := rfl

/-- A significand of 24 bits, with its top bit set unless the datum is subnormal, counts steps of 2^k. -/
theorem bitUnits_significand {k t : Nat} (hk : k = 0 ∨ 2 ^ 23 ≤ t) (ht : t ≤ 2 ^ 24) :
    bitUnits (k * 2 ^ 23 + t) = t * 2 ^ k := by
  unfold bitUnits
  rcases Nat.lt_or_ge t (2 ^ 23) with hlow | htop
  · obtain rfl : k = 0 := by omega
    rw [if_pos (by omega)]
    omega
  · rcases Nat.lt_or_ge t (2 ^ 24) with hlt | hcarry
    · rw [if_neg (by omega), show (k * 2 ^ 23 + t) / 2 ^ 23 - 1 = k by omega,
        show 2 ^ 23 + (k * 2 ^ 23 + t) % 2 ^ 23 = t by omega]
    · rw [if_neg (by omega), show (k * 2 ^ 23 + t) / 2 ^ 23 - 1 = k + 1 by omega,
        show 2 ^ 23 + (k * 2 ^ 23 + t) % 2 ^ 23 = 2 ^ 23 by omega, show t = 2 ^ 24 by omega, pow_succ]
      ring

/-- Every bit pattern is a significand at a place. -/
theorem exists_significand (b : Nat) :
    ∃ k t, b = k * 2 ^ 23 + t ∧ (k = 0 ∨ 2 ^ 23 ≤ t) ∧ t < 2 ^ 24 :=
  ⟨b / 2 ^ 23 - 1, b - (b / 2 ^ 23 - 1) * 2 ^ 23, by omega, by omega, by omega⟩

theorem bitUnits_strictMono : StrictMono bitUnits := by
  refine strictMono_nat_of_lt_succ fun b => ?_
  obtain ⟨k, t, rfl, hk, ht⟩ := exists_significand b
  rw [Nat.add_assoc, bitUnits_significand hk ht.le, bitUnits_significand (by omega) (by omega)]
  exact Nat.mul_lt_mul_of_pos_right t.lt_succ_self (by positivity)

/-- Below 2^j the neighbouring magnitudes are at most 2^(j - 24) apart. -/
theorem bitUnits_succ_le {b j : Nat} (hj : 24 ≤ j) (h : bitUnits b < 2 ^ j) :
    bitUnits (b + 1) ≤ bitUnits b + 2 ^ (j - 24) := by
  obtain ⟨k, t, rfl, hk, ht⟩ := exists_significand b
  rw [bitUnits_significand hk ht.le] at h
  have hstep : k ≤ j - 24 := by
    rcases hk with rfl | htop
    · exact Nat.zero_le _
    · have : 2 ^ (23 + k) < 2 ^ j :=
        calc 2 ^ (23 + k) = 2 ^ 23 * 2 ^ k := pow_add ..
          _ ≤ t * 2 ^ k := Nat.mul_le_mul_right _ htop
          _ < 2 ^ j := h
      have := (Nat.pow_lt_pow_iff_right (by decide)).1 this
      omega
  rw [Nat.add_assoc, bitUnits_significand hk ht.le, bitUnits_significand (by omega) (by omega), Nat.succ_mul]
  exact Nat.add_le_add_left (Nat.pow_le_pow_right (by decide) hstep) _

/-! ### The choice between the two neighbours -/

/-- The place `roundBits` takes leaves a quotient of 24 bits, with its top bit set unless the place is 0. -/
theorem significand_of_log2 (q : Nat) :
    (q.log2 - 23 = 0 ∨ 2 ^ 23 ≤ q / 2 ^ (q.log2 - 23)) ∧ q / 2 ^ (q.log2 - 23) < 2 ^ 24 := by
  have hup : q < 2 ^ (q.log2 + 1) := Nat.lt_log2_self
  constructor
  · rcases Nat.eq_zero_or_pos (q.log2 - 23) with h | h
    · exact .inl h
    · refine .inr ((Nat.le_div_iff_mul_le (by positivity)).2 ?_)
      rw [← pow_add, show 23 + (q.log2 - 23) = q.log2 by omega]
      exact Nat.log2_self_le (by rintro rfl; simp at h)
  · rw [Nat.div_lt_iff_lt_mul (by positivity), ← pow_add]
    exact hup.trans_le (Nat.pow_le_pow_right (by decide) (by omega))

/-- What `roundBits` does: the exact magnitude lies between two neighbours, and the upper one is chosen if the magnitude
is past their midpoint, or on it and the lower one is odd. -/
theorem roundBits_between {n d : Nat} (hd : 0 < d) : ∃ b, bitUnits b * d ≤ n ∧ n < bitUnits (b + 1) * d ∧
    roundBits n d = if bitUnits b * d + bitUnits (b + 1) * d < 2 * n
      ∨ (bitUnits b * d + bitUnits (b + 1) * d = 2 * n ∧ b % 2 = 1) then b + 1 else b := by
  obtain ⟨htop, hlt⟩ := significand_of_log2 (n / d)
  rw [Nat.div_div_eq_div_mul] at htop hlt
  unfold roundBits
  dsimp only
  generalize (n / d).log2 - 23 = k at htop hlt ⊢
  have hlow := bitUnits_significand htop hlt.le
  have hhigh := bitUnits_significand (k := k) (t := n / (d * 2 ^ k) + 1) (by omega) (by omega)
  have hdiv := Nat.div_add_mod n (d * 2 ^ k)
  have hmod := Nat.mod_lt n (show 0 < d * 2 ^ k by positivity)
  generalize n / (d * 2 ^ k) = t at htop hlt hlow hhigh hdiv ⊢
  generalize n % (d * 2 ^ k) = r at hdiv hmod ⊢
  have hA : bitUnits (k * 2 ^ 23 + t) * d = d * 2 ^ k * t := by rw [hlow]; ring
  have hB : bitUnits (k * 2 ^ 23 + t + 1) * d = d * 2 ^ k * t + d * 2 ^ k := by rw [Nat.add_assoc, hhigh]; ring
  refine ⟨k * 2 ^ 23 + t, ?_⟩
  rw [hA, hB]
  generalize d * 2 ^ k * t = A at hdiv ⊢
  generalize d * 2 ^ k = e at hdiv hmod ⊢
  refine ⟨by omega, by omega, ?_⟩
  split <;> split <;> omega

/-- No bit pattern has a value nearer to the exact magnitude than the chosen one, and a choice between two equally near
ones is even. -/
theorem roundBits_nearest {n d : Nat} (hd : 0 < d) (c : Nat) :
    ((bitUnits (roundBits n d) * d : Nat) - (n : Int)).natAbs ≤ ((bitUnits c * d : Nat) - (n : Int)).natAbs
    ∧ (c ≠ roundBits n d →
        ((bitUnits (roundBits n d) * d : Nat) - (n : Int)).natAbs = ((bitUnits c * d : Nat) - (n : Int)).natAbs →
        roundBits n d % 2 = 0) := by
  obtain ⟨b, hlow, hhigh, hr⟩ := roundBits_between (n := n) hd
  have hmono : ∀ {x y}, x < y → bitUnits x * d < bitUnits y * d := fun h =>
    Nat.mul_lt_mul_of_pos_right (bitUnits_strictMono h) hd
  have hc : c < b ∧ bitUnits c * d < bitUnits b * d ∨ c = b ∨ c = b + 1
      ∨ b + 1 < c ∧ bitUnits (b + 1) * d < bitUnits c * d := by
    rcases Nat.lt_trichotomy c b with h | h | h
    · exact .inl ⟨h, hmono h⟩
    · exact .inr (.inl h)
    · rcases Nat.lt_or_ge (b + 1) c with h' | h'
      · exact .inr (.inr (.inr ⟨h', hmono h'⟩))
      · exact .inr (.inr (.inl (by omega)))
  rw [hr]
  split
  · rcases hc with hc | rfl | rfl | hc <;> omega
  · rcases hc with hc | rfl | rfl | hc <;> omega

/-- Above an odd pattern, exactly what is at least the midpoint above it is narrowed beyond it. -/
theorem lt_roundBits_iff_of_odd {n d c : Nat} (hd : 0 < d) (hc : c % 2 = 1) :
    c < roundBits n d ↔ bitUnits c * d + bitUnits (c + 1) * d ≤ 2 * n := by
  obtain ⟨b, hlow, hhigh, hr⟩ := roundBits_between (n := n) hd
  have hmono : ∀ {x y}, x ≤ y → bitUnits x * d ≤ bitUnits y * d := fun h =>
    Nat.mul_le_mul_right _ (bitUnits_strictMono.monotone h)
  rw [hr]
  rcases Nat.lt_trichotomy c b with h | rfl | h
  · have h1 := hmono h.le
    have h2 := hmono (show c + 1 ≤ b from h)
    split <;> omega
  · split <;> omega
  · have h1 := hmono (show b + 1 ≤ c from h)
    have h2 := hmono (show b + 1 ≤ c + 1 by omega)
    split <;> omega

/-- What is at most a magnitude is narrowed to at most that magnitude. -/
theorem roundBits_le {n d b : Nat} (hd : 0 < d) (h : n ≤ bitUnits b * d) : roundBits n d ≤ b := by
  by_contra hlt
  have hfar := (roundBits_nearest (n := n) hd b).1
  have := Nat.mul_lt_mul_of_pos_right (bitUnits_strictMono (Nat.lt_of_not_le hlt)) hd
  omega

/-- Of what is below 2^j, narrowing loses at most half a step of 2^(j - 24). -/
theorem roundBits_error {n d j : Nat} (hd : 0 < d) (hj : 24 ≤ j) (h : n < 2 ^ j * d) :
    2 * (bitUnits (roundBits n d) * d) ≤ 2 * n + 2 ^ (j - 24) * d
    ∧ 2 * n ≤ 2 * (bitUnits (roundBits n d) * d) + 2 ^ (j - 24) * d := by
  obtain ⟨b, hlow, hhigh, hr⟩ := roundBits_between (n := n) hd
  have hb : bitUnits b < 2 ^ j := Nat.lt_of_mul_lt_mul_right (hlow.trans_lt h)
  have hstep := Nat.mul_le_mul_right d (bitUnits_succ_le hj hb)
  rw [Nat.add_mul] at hstep
  rw [hr]
  split <;> omega

/-- The infinity is the pattern above the largest finite magnitude, and that is where an overflow goes. -/
theorem round_eq_inf_iff {neg : Bool} {n d : Nat} (hd : 0 < d) :
    round neg n d = .inf neg ↔ (2 ^ 25 - 1) * 2 ^ 252 * d ≤ n := by
  have hbits : round neg n d = .inf neg ↔ 0x7F7FFFFF < roundBits n d := by
    unfold round
    split
    · simp
      omega
    · simp
      omega
  have hmid : bitUnits 0x7F7FFFFF + bitUnits (0x7F7FFFFF + 1) = 2 * ((2 ^ 25 - 1) * 2 ^ 252) := by decide +kernel
  rw [hbits, lt_roundBits_iff_of_odd hd (by decide), ← Nat.add_mul, hmid, Nat.mul_assoc 2]
  exact Nat.mul_le_mul_left_iff (by decide)

end F

/-- Settles O58: the chosen one of the two neighbours is nearest among all bit patterns, so among the finite ones. -/
theorem roundingIsNearestEven : Obligations.RoundingIsNearestEven := by
  intro neg n d hd
  refine ⟨fun s m h => ?_, F.round_eq_inf_iff hd⟩
  obtain ⟨rfl, hm⟩ := F.round_eq_fin h
  refine ⟨rfl, fun k => ?_⟩
  obtain ⟨hnear, heven⟩ := F.roundBits_nearest (n := n) hd k.val
  rw [← hm, F.bitUnits_val, F.bitUnits_val] at hnear heven
  exact ⟨hnear, fun hk => heven (Fin.val_ne_of_ne hk)⟩

end Sys2Proof
end

section
/-! SUPPORT. How near the basic operations come to the exact result, in counts of 2^-149 (00_scope.md R14, R17), and what
follows for `wrap` (R20). -/

namespace Sys2Proof

namespace F

/-! ### Ranks of finite data -/

@[simp] theorem rank_fin (s : Bool) (m : Mag) : (fin s m).rank = finUnits s m := rfl

theorem abs_finUnits (s : Bool) (m : Mag) : |finUnits s m| = m.units := by
  cases s <;> simp [finUnits]

theorem finUnits_zero (s : Bool) : finUnits s ⟨0, by decide⟩ = 0 := by
  cases s <;> rfl

theorem rank_neg {a : F} (h : a.isFinite = true) : (neg a).rank = -a.rank := by
  obtain ⟨s, m, rfl⟩ := isFinite_iff.1 h
  cases s <;> simp [neg, finUnits]

theorem rank_abs {a : F} (h : a.isFinite = true) : (abs a).rank = |a.rank| := by
  obtain ⟨s, m, rfl⟩ := isFinite_iff.1 h
  rw [rank_fin, abs_finUnits]
  rfl

theorem ne_nan_of_isFinite {a : F} (h : a.isFinite = true) : a ≠ .nan := by
  rintro rfl
  cases h

theorem lt_iff_rank {a b : F} (ha : a.isFinite = true) (hb : b.isFinite = true) : lt a b = true ↔ a.rank < b.rank := by
  simp [lt_iff, ne_nan_of_isFinite ha, ne_nan_of_isFinite hb]

theorem le_iff_rank {a b : F} (ha : a.isFinite = true) (hb : b.isFinite = true) : le a b = true ↔ a.rank ≤ b.rank := by
  simp [le_iff, ne_nan_of_isFinite ha, ne_nan_of_isFinite hb]

/-! ### Half a step from the exact result -/

/-- `r` is finite and within half a step of 2^(j - 24) of `v / d`, as a narrowed `v / d` below 2^j is. -/
def IsNear (j d : Nat) (v : Int) (r : F) : Prop :=
  r.isFinite = true ∧ 2 * (r.rank * d) ≤ 2 * v + 2 ^ (j - 24) * d ∧ 2 * v ≤ 2 * (r.rank * d) + 2 ^ (j - 24) * d

/-- What is below 2^j is narrowed to a finite datum, with the error `IsNear` allows. -/
theorem round_isNear {neg : Bool} {n d j : Nat} {v : Int} (hv : v = if neg then -(n : Int) else n) (hd : 0 < d)
    (hj : 24 ≤ j) (hfin : j ≤ 255) (h : |v| < 2 ^ j * d) : IsNear j d v (round neg n d) := by
  have hn : n < 2 ^ j * d := by
    suffices (n : Int) < 2 ^ j * d by exact_mod_cast this
    cases neg <;> simpa [hv] using h
  have hsmall : ¬ (2 ^ 25 - 1) * 2 ^ 252 * d ≤ n := by
    have : 2 ^ j * d ≤ 2 ^ 255 * d := Nat.mul_le_mul_right d (Nat.pow_le_pow_right (by decide) hfin)
    omega
  rcases round_cases neg n d with ⟨m, hm⟩ | hinf
  · obtain ⟨-, hval⟩ := round_eq_fin hm
    obtain ⟨hlow, hhigh⟩ := roundBits_error hd hj hn
    rw [← hval, bitUnits_val] at hlow hhigh
    zify at hlow hhigh
    rw [hm, hv]
    refine ⟨rfl, ?_⟩
    cases neg <;> simp only [rank_fin, finUnits, if_true, if_false, Bool.false_eq_true] <;>
      constructor <;> linarith
  · exact absurd ((round_eq_inf_iff hd).1 hinf) hsmall

/-- A signed integer narrowed by its own sign. -/
theorem round_int_isNear {v : Int} {j : Nat} (hj : 24 ≤ j) (hfin : j ≤ 255) (h : |v| < 2 ^ j) :
    IsNear j 1 v (round (decide (v < 0)) v.natAbs 1) := by
  refine round_isNear ?_ Nat.one_pos hj hfin (by simpa using h)
  simp only [decide_eq_true_eq]
  split <;> omega

/-- A product below 2^j in magnitude. -/
theorem mul_isNear {a b : F} {j : Nat} (ha : a.isFinite = true) (hb : b.isFinite = true) (hj : 24 ≤ j) (hfin : j ≤ 255)
    (h : |a.rank * b.rank| < 2 ^ j * 2 ^ 149) : IsNear j (2 ^ 149) (a.rank * b.rank) (mul a b) := by
  obtain ⟨s, m, rfl⟩ := isFinite_iff.1 ha
  obtain ⟨t, n, rfl⟩ := isFinite_iff.1 hb
  refine round_isNear ?_ (by positivity) hj hfin (by exact_mod_cast h)
  cases s <;> cases t <;> simp [finUnits]

/-- A sum below 2^j in magnitude. -/
theorem add_isNear {a b : F} {j : Nat} (ha : a.isFinite = true) (hb : b.isFinite = true) (hj : 24 ≤ j) (hfin : j ≤ 255)
    (h : |a.rank + b.rank| < 2 ^ j) : IsNear j 1 (a.rank + b.rank) (add a b) := by
  obtain ⟨s, m, rfl⟩ := isFinite_iff.1 ha
  obtain ⟨t, n, rfl⟩ := isFinite_iff.1 hb
  rw [rank_fin, rank_fin] at h ⊢
  rw [add_fin]
  split
  · next hzero =>
    rw [hzero, IsNear, rank_fin, finUnits_zero]
    exact ⟨rfl, by simp⟩
  · exact round_int_isNear hj hfin h

/-- An integer below 2^(j - 149) in magnitude. -/
theorem ofInt_isNear {i : Int} {j : Nat} (hj : 24 ≤ j) (hfin : j ≤ 255) (h : |i * 2 ^ 149| < 2 ^ j) :
    IsNear j 1 (i * 2 ^ 149) (ofInt i) := by
  have hneg : decide (i < 0) = decide (i * 2 ^ 149 < 0) := decide_eq_decide.2 (by omega)
  have habs : i.natAbs * 2 ^ 149 = (i * 2 ^ 149).natAbs := by omega
  rw [ofInt, hneg, habs]
  exact round_int_isNear hj hfin h

/-- Rounding to an integer moves a finite datum by at most a half. -/
theorem rneInt_near {a : F} (h : a.isFinite = true) :
    rneInt a * 2 ^ 149 ≤ a.rank + 2 ^ 148 ∧ a.rank ≤ rneInt a * 2 ^ 149 + 2 ^ 148 := by
  obtain ⟨s, m, rfl⟩ := isFinite_iff.1 h
  rw [rank_fin]
  unfold rneInt rneFin finUnits
  dsimp only
  split <;> split <;> omega

/-- A signed integer that is at most a finite magnitude is narrowed to at most that magnitude. -/
theorem rank_round_int_le {v : Int} {m : Mag} (h : v ≤ m.units)
    (hfin : (round (decide (v < 0)) v.natAbs 1).isFinite = true) :
    (round (decide (v < 0)) v.natAbs 1).rank ≤ m.units := by
  obtain ⟨s, r, hr⟩ := isFinite_iff.1 hfin
  obtain ⟨rfl, hval⟩ := round_eq_fin hr
  rw [hr, rank_fin, finUnits]
  by_cases hneg : v < 0
  · rw [if_pos (decide_eq_true hneg)]
    omega
  · rw [if_neg (by simpa using hneg), ← bitUnits_val, ← bitUnits_val, hval]
    have hle : roundBits v.natAbs 1 ≤ m.val := roundBits_le Nat.one_pos (by rw [bitUnits_val]; omega)
    exact_mod_cast bitUnits_strictMono.monotone hle

/-- A sum that is at most a finite magnitude is narrowed to at most that magnitude. -/
theorem rank_add_le {a b : F} {m : Mag} (ha : a.isFinite = true) (hb : b.isFinite = true)
    (h : a.rank + b.rank ≤ m.units) (hfin : (add a b).isFinite = true) : (add a b).rank ≤ m.units := by
  obtain ⟨s, ma, rfl⟩ := isFinite_iff.1 ha
  obtain ⟨t, mb, rfl⟩ := isFinite_iff.1 hb
  rw [rank_fin, rank_fin] at h
  rw [add_fin] at hfin ⊢
  split at hfin
  · next hzero =>
    rw [if_pos hzero, rank_fin, finUnits_zero]
    exact Int.natCast_nonneg _
  · next hne =>
    rw [if_neg hne]
    exact rank_round_int_le h hfin

/-! ### `wrap` -/

theorem rank_invTwoPi : invTwoPi.rank = 10680707 * 2 ^ 123 := by decide +kernel

theorem rank_twoPi : twoPi.rank = 13176795 * 2 ^ 128 := by decide +kernel

theorem rank_pi : pi.rank = 13176795 * 2 ^ 127 := by decide +kernel

/-- The number of whole turns `wrap` takes off a phase (R20's first step). -/
def turns (x : F) : F := ofInt (rneInt (mul x invTwoPi))

/-- The whole turns are those of the phase to within half a turn and two roundings. -/
theorem turns_near {x : F} (hx : x.isFinite = true) (h : |x.rank| ≤ 2 ^ 171) :
    (turns x).isFinite = true ∧ |(turns x).rank * 2 ^ 149 - x.rank * invTwoPi.rank| ≤ 19 * 2 ^ 293 := by
  rw [rank_invTwoPi]
  obtain ⟨hxl, hxh⟩ := abs_le.1 h
  obtain ⟨hp, hpl, hph⟩ := mul_isNear (j := 169) (b := invTwoPi) hx rfl (by decide) (by decide)
    (by rw [rank_invTwoPi, abs_lt]; omega)
  rw [rank_invTwoPi] at hpl hph
  push_cast at hpl hph
  obtain ⟨hnl, hnh⟩ := rneInt_near hp
  obtain ⟨hq, hql, hqh⟩ := ofInt_isNear (i := rneInt (mul x invTwoPi)) (j := 170) (by decide) (by decide)
    (by rw [abs_lt]; omega)
  refine ⟨hq, abs_le.2 ?_⟩
  rw [turns]
  omega

/-- The phase less its whole turns (R20's second step). -/
def reduced (x : F) : F := sub x (mul (turns x) twoPi)

/-- The phase less its whole turns is at most 5 in magnitude. -/
theorem reduced_bound {x : F} (hx : x.isFinite = true) (h : |x.rank| ≤ 2 ^ 171) :
    (reduced x).isFinite = true ∧ |(reduced x).rank| ≤ 5 * 2 ^ 149 := by
  obtain ⟨hq, hturns⟩ := turns_near hx h
  rw [rank_invTwoPi] at hturns
  obtain ⟨hxl, hxh⟩ := abs_le.1 h
  obtain ⟨hql, hqh⟩ := abs_le.1 hturns
  obtain ⟨ht, htl, hth⟩ := mul_isNear (j := 172) (b := twoPi) hq rfl (by decide) (by decide)
    (by rw [rank_twoPi, abs_lt]; omega)
  rw [rank_twoPi] at htl hth
  push_cast at htl hth
  obtain ⟨hy, hyl, hyh⟩ := add_isNear (j := 152) (b := neg (mul (turns x) twoPi)) hx (by rwa [isFinite_neg]) (by decide)
    (by decide) (by rw [rank_neg ht, abs_lt]; omega)
  rw [rank_neg ht] at hyl hyh
  push_cast at hyl hyh
  refine ⟨hy, abs_le.2 ?_⟩
  rw [reduced, sub]
  omega

/-- R20's third step: a turn off what is above PI. -/
def lowered (y : F) : F := if lt pi y then sub y twoPi else y

/-- R20's last step: a turn onto what is not above -PI. -/
def raised (y : F) : F := if le y (neg pi) then add y twoPi else y

theorem wrap_eq {x : F} (h : x.isFinite = true) : wrap x = raised (lowered (reduced x)) := if_pos h

/-- A phase of at most 5 is lowered to at most PI, and not below -5. -/
theorem lowered_bound {y : F} (hy : y.isFinite = true) (h : |y.rank| ≤ 5 * 2 ^ 149) :
    (lowered y).isFinite = true ∧ -(5 * 2 ^ 149) ≤ (lowered y).rank ∧ (lowered y).rank ≤ pi.rank := by
  obtain ⟨hlow, hhigh⟩ := abs_le.1 h
  have htwo : (neg twoPi).rank = -(13176795 * 2 ^ 128) := by rw [rank_neg rfl, rank_twoPi]
  unfold lowered
  split
  · next hgt =>
    rw [lt_iff_rank rfl hy, rank_pi] at hgt
    obtain ⟨hz, hzl, hzh⟩ := add_isNear (j := 152) (b := neg twoPi) hy rfl (by decide) (by decide)
      (by rw [htwo, abs_lt]; omega)
    rw [htwo] at hzl hzh
    push_cast at hzl hzh
    rw [sub, rank_pi]
    exact ⟨hz, by omega, by omega⟩
  · next hle =>
    rw [lt_iff_rank rfl hy] at hle
    exact ⟨hy, hlow, by omega⟩

/-- A finite datum is wrapped if its rank lies between those of -PI and PI. -/
theorem isWrapped_of_rank {a : F} (ha : a.isFinite = true) (hlow : -pi.rank < a.rank) (hhigh : a.rank ≤ pi.rank) :
    a.isWrapped = true := by
  rw [isWrapped, ha, (lt_iff_rank rfl ha).2 (by rwa [rank_neg rfl]), (le_iff_rank ha rfl).2 hhigh]
  rfl

theorem units_piMag : (NumRef.piMag.units : Int) = 13176795 * 2 ^ 127 := by decide +kernel

/-- A phase from -5 to PI is raised into (-PI, PI]: its sum with TWO_PI is at most PI, and so is the narrowed sum. -/
theorem raised_isWrapped {y : F} (hy : y.isFinite = true) (hlow : -(5 * 2 ^ 149) ≤ y.rank) (hhigh : y.rank ≤ pi.rank) :
    (raised y).isWrapped = true := by
  unfold raised
  split
  · next hle =>
    rw [le_iff_rank hy rfl, rank_neg rfl, rank_pi] at hle
    obtain ⟨hz, hzl, hzh⟩ := add_isNear (j := 152) (b := twoPi) hy rfl (by decide) (by decide)
      (by rw [rank_twoPi, abs_lt]; omega)
    rw [rank_twoPi] at hzl hzh
    push_cast at hzl hzh
    have hcap := rank_add_le (b := twoPi) (m := NumRef.piMag) hy rfl (by rw [rank_twoPi, units_piMag]; omega) hz
    rw [units_piMag] at hcap
    exact isWrapped_of_rank hz (by rw [rank_pi]; omega) (by rwa [rank_pi])
  · next hgt =>
    rw [le_iff_rank hy rfl, rank_neg rfl] at hgt
    exact isWrapped_of_rank hy (by omega) hhigh

end F

/-- Settles O59: the reduced phase is at most 5 in magnitude, so one turn off or on brings it into the interval. -/
theorem wrapLandsInInterval : Obligations.WrapLandsInInterval := by
  refine fun x => ⟨fun hx hle => ?_, F.wrap_nonfinite⟩
  have hcap : (F.ofInt (2 ^ 22)).rank = 2 ^ 171 := by decide +kernel
  rw [F.le_iff_rank (by rwa [F.isFinite_abs]) rfl, F.rank_abs hx, hcap] at hle
  obtain ⟨hy, hbound⟩ := F.reduced_bound hx hle
  obtain ⟨hz, hlow, hhigh⟩ := F.lowered_bound hy hbound
  rw [F.wrap_eq hx]
  exact F.raised_isWrapped hz hlow hhigh

end Sys2Proof
end

section
/-! SUPPORT. The reference numeric record (00_scope.md R16) against R15: the cap on a narrowed result, and the size of the
exponential series. -/

namespace Sys2Proof

namespace NumRef

/-! ### The cap -/

/-- Between a magnitude's negation and itself lies what is at most that magnitude. -/
theorem within_fin_iff {s : Bool} {m cap : Mag} :
    F.within (F.neg (.fin false cap)) (.fin false cap) (.fin s m) = true ↔ m.units ≤ cap.units := by
  have hneg : F.neg (.fin false cap) = .fin true cap := rfl
  rw [F.within, hneg, F.le_fin, F.le_fin, Bool.and_eq_true, decide_eq_true_eq, decide_eq_true_eq]
  cases s <;> simp only [F.finUnits, if_true, if_false, Bool.false_eq_true] <;> omega

theorem within_of_val_le {s : Bool} {m cap : Mag} (h : m.val ≤ cap.val) :
    F.within (F.neg (.fin false cap)) (.fin false cap) (.fin s m) = true :=
  within_fin_iff.2 (F.bitUnits_strictMono.monotone h)

/-- What is capped and no NaN is finite and within the cap. -/
theorem capMag_within {cap : Mag} {a : F} (h : a ≠ .nan) :
    (capMag cap a).isFinite = true ∧ F.within (F.neg (.fin false cap)) (.fin false cap) (capMag cap a) = true := by
  rcases a with _ | s | ⟨s, m⟩
  · exact absurd rfl h
  · exact ⟨rfl, within_of_val_le le_rfl⟩
  · refine ⟨rfl, within_of_val_le ?_⟩
    split
    · assumption
    · exact le_rfl

theorem narrow_ne_nan (v : Bool × Nat) : Trig.narrow v ≠ .nan := F.round_ne_nan _ _ _

/-! ### Cosine and sine -/

theorem cos_within {a : F} (h : a.isFinite = true) :
    (cos a).isFinite = true ∧ F.within (F.neg .one) .one (cos a) = true := by
  obtain ⟨s, m, rfl⟩ := F.isFinite_iff.1 h
  exact capMag_within (narrow_ne_nan _)

theorem sin_within {a : F} (h : a.isFinite = true) :
    (sin a).isFinite = true ∧ F.within (F.neg .one) .one (sin a) = true := by
  obtain ⟨s, m, rfl⟩ := F.isFinite_iff.1 h
  unfold sin
  dsimp only
  split
  · next hzero => exact ⟨rfl, within_of_val_le (cap := oneMag) (by rw [hzero]; exact Nat.zero_le _)⟩
  · exact capMag_within (narrow_ne_nan _)

/-! ### Arctangent -/

theorem angle_within (neg : Bool) (v : Nat) :
    (angle neg v).isFinite = true ∧ F.within (F.neg .pi) .pi (angle neg v) = true :=
  capMag_within (F.round_ne_nan _ _ _)

theorem atan2_nan (a : F) : atan2 .nan a = .nan ∧ atan2 a .nan = .nan := by
  simp [atan2, F.isNaN]

theorem atan2_within {y x : F} (hy : y ≠ .nan) (hx : x ≠ .nan) :
    (atan2 y x).isFinite = true ∧ F.within (F.neg .pi) .pi (atan2 y x) = true := by
  have hnum : (y.isNaN || x.isNaN) = false := by
    cases y <;> cases x <;> simp_all [F.isNaN]
  unfold atan2
  rw [if_neg (by simp [hnum])]
  split
  · split
    · exact ⟨rfl, within_of_val_le (cap := piMag) le_rfl⟩
    · exact ⟨rfl, within_of_val_le (cap := piMag) (Nat.zero_le _)⟩
  · split
    · exact angle_within _ _
    · exact angle_within _ _

/-- Of a point on the axis, the sign bit of `x` decides. -/
theorem atan2_zero {x : F} (hx : x ≠ .nan) : atan2 .zero x = if signBit x then .pi else .zero := by
  cases x with
  | nan => exact absurd rfl hx
  | inf s => cases s <;> rfl
  | fin s m => cases s <;> rfl

theorem signBit_of_pos {x : F} (h : F.lt .zero x = true) : signBit x = false := by
  rcases x with _ | ⟨_ | _⟩ | ⟨_ | _, m⟩
  · rfl
  · rfl
  · exact absurd h (by decide +kernel)
  · rfl
  · rw [F.zero, F.lt_fin, F.finUnits_zero, F.finUnits, decide_eq_true_eq, if_pos rfl] at h
    omega

theorem signBit_of_neg {x : F} (h : F.lt x .zero = true) : signBit x = true := by
  rcases x with _ | ⟨_ | _⟩ | ⟨_ | _, m⟩
  · cases h
  · exact absurd h (by decide +kernel)
  · rfl
  · rw [F.zero, F.lt_fin, F.finUnits_zero, F.finUnits, decide_eq_true_eq, if_neg Bool.false_ne_true] at h
    omega
  · rfl

/-! ### Power of two -/

/-- A bracket of the exponential series, 1 plus at most 3/4 of the bracket within it, stays at most 4. -/
theorem expBracket_le {e x h k : Nat} (hx : 4 * x ≤ 3 * e) (hh : h ≤ 4 * e) : e + x * h / (e * (k + 1)) ≤ 4 * e := by
  have hprod : 4 * x * h ≤ 3 * e * (4 * e) := Nat.mul_le_mul hx hh
  have hterm : x * h / (e * (k + 1)) ≤ 3 * e := Nat.div_le_of_le_mul <|
    calc x * h ≤ 3 * (e * e) := by linarith
      _ ≤ 3 * (e * e) * (k + 1) := Nat.le_mul_of_pos_right _ k.succ_pos
      _ = e * (k + 1) * (3 * e) := by ring
  omega

/-- One step of the series, as an equation of functions: with the bracket applied, the kernel's check of the equation
unfolds the literal 1.0 one count at a time. -/
theorem expNest_succ (x k : Nat) :
    Trig.expNest x (k + 1) = fun h => Trig.expNest x k (Trig.one + x * h / (Trig.one * (k + 1))) := rfl

theorem expNest_bounds {x k h : Nat} (hx : 4 * x ≤ 3 * Trig.one) (hlow : Trig.one ≤ h) (hhigh : h ≤ 4 * Trig.one) :
    Trig.one ≤ Trig.expNest x k h ∧ Trig.expNest x k h ≤ 4 * Trig.one := by
  induction k generalizing h with
  | zero => exact ⟨hlow, hhigh⟩
  | succ k ih =>
    rw [expNest_succ]
    exact ih (Nat.le_add_right _ _) (expBracket_le hx hhigh)

theorem exp2Frac_bounds {f : Nat} (hf : f ≤ Trig.one) :
    Trig.one ≤ Trig.exp2Frac f ∧ Trig.exp2Frac f ≤ 4 * Trig.one := by
  refine expNest_bounds ?_ le_rfl (by omega)
  have hln2 : 4 * Trig.ln2 ≤ 3 * Trig.one := by decide +kernel
  have : f * Trig.ln2 / Trig.one ≤ Trig.ln2 := Nat.div_le_of_le_mul (Nat.mul_le_mul_right _ hf)
  omega

/-- What lies well between 0 and the overflow is narrowed to a finite positive datum; 2^149 counts are 1.0. -/
theorem round_pos {v d : Nat} (hd : 0 < d) (hlow : 2 ^ 148 * d ≤ v) (hhigh : v ≤ 2 ^ 152 * d) :
    (F.round false v d).isFinite = true ∧ F.lt .zero (F.round false v d) = true := by
  obtain ⟨hfin, -, hnear⟩ := F.round_isNear (neg := false) (n := v) (v := v) (j := 153) rfl hd (by decide) (by decide)
    (by rw [Nat.abs_cast]; omega)
  refine ⟨hfin, (F.lt_iff_rank rfl hfin).2 ?_⟩
  by_contra hneg
  have hzero : F.zero.rank = 0 := rfl
  have := Int.mul_nonpos_of_nonpos_of_nonneg (by omega : (F.round false v d).rank ≤ 0) (Int.natCast_nonneg d)
  omega

theorem one_eq_fixed : Trig.one = 2 ^ 149 * 2 ^ 551 := by decide +kernel

theorem exp2Up_pos {n f : Nat} (hn : n ≤ 1) (hf : f ≤ Trig.one) :
    (exp2Up n f).isFinite = true ∧ F.lt .zero (exp2Up n f) = true := by
  obtain ⟨hlow, hhigh⟩ := exp2Frac_bounds hf
  rw [exp2Up, if_neg (by omega)]
  rw [one_eq_fixed] at hlow hhigh
  have hpos : 0 < 2 ^ 551 := by positivity
  generalize 2 ^ 551 = e at hlow hhigh hpos ⊢
  obtain rfl | rfl : n = 0 ∨ n = 1 := by omega
  all_goals exact round_pos hpos (by omega) (by omega)

theorem exp2Down_pos {n f : Nat} (hn : n ≤ 1) (hf : f ≤ Trig.one) :
    (exp2Down n f).isFinite = true ∧ F.lt .zero (exp2Down n f) = true := by
  obtain ⟨hlow, hhigh⟩ := exp2Frac_bounds hf
  rw [exp2Down, if_neg (by omega)]
  rw [one_eq_fixed] at hlow hhigh
  have hpos : 0 < 2 ^ 551 := by positivity
  generalize 2 ^ 551 = e at hlow hhigh hpos ⊢
  obtain rfl | rfl : n = 0 ∨ n = 1 := by omega
  all_goals exact round_pos (by omega) (by omega) (by omega)

/-- A datum between -1 and 1 is finite, and at most 1 in counts of 2^-700. -/
theorem fixed_le_of_within {a : F} (h : F.within (F.neg .one) .one a = true) :
    ∃ s m, a = .fin s m ∧ fixed m ≤ Trig.one := by
  rcases a with _ | ⟨_ | _⟩ | ⟨s, m⟩
  · cases h
  · exact absurd h (by decide +kernel)
  · exact absurd h (by decide +kernel)
  · have hunits : oneMag.units = 2 ^ 149 := by decide +kernel
    refine ⟨s, m, rfl, ?_⟩
    rw [fixed, one_eq_fixed, ← hunits]
    exact Nat.mul_le_mul_right _ (within_fin_iff.1 h)

theorem exp2_pos {a : F} (h : F.within (F.neg .one) .one a = true) :
    (exp2 a).isFinite = true ∧ F.lt .zero (exp2 a) = true := by
  obtain ⟨s, m, rfl, hm⟩ := fixed_le_of_within h
  have hone : 0 < Trig.one := by decide +kernel
  have hdiv := Nat.div_add_mod (fixed m) Trig.one
  have hmod := Nat.mod_lt (fixed m) hone
  have hquot : fixed m / Trig.one ≤ 1 := Nat.div_le_of_le_mul (by omega)
  unfold exp2
  dsimp only
  split
  · split
    · exact exp2Down_pos hquot (Nat.zero_le _)
    · next hrest =>
      have hbelow : fixed m / Trig.one = 0 := by
        refine Nat.div_eq_of_lt (lt_of_le_of_ne hm ?_)
        intro heq
        exact hrest (by rw [heq, Nat.mod_self])
      exact exp2Down_pos (by omega) (Nat.sub_le _ _)
  · exact exp2Up_pos hquot hmod.le

/-! ### Values at the zeros -/

theorem isZero_iff {a : F} : a.isZero = true ↔ ∃ s, a = .fin s ⟨0, by decide⟩ := by
  constructor
  · intro h
    rcases a with _ | s | ⟨s, m⟩
    · cases h
    · cases h
    · exact ⟨s, congrArg (F.fin s) (Fin.ext (of_decide_eq_true h))⟩
  · rintro ⟨s, rfl⟩
    rfl

theorem cos_isZero {a : F} (h : a.isZero = true) : cos a = .one := by
  obtain ⟨s, rfl⟩ := isZero_iff.1 h
  cases s <;> decide +kernel

theorem exp2_isZero {a : F} (h : a.isZero = true) : exp2 a = .one := by
  obtain ⟨s, rfl⟩ := isZero_iff.1 h
  cases s <;> decide +kernel

end NumRef

/-- A build's numeric record is NUM_REF or meets R15. -/
theorem NumChoice.fns_cases (num : NumChoice) : num.fns = .ref ∨ num.fns.Meets := by
  cases num with
  | ref => exact .inl rfl
  | build k =>
    unfold NumChoice.fns
    dsimp only
    split
    · next num _ => exact .inr num.meets
    · exact .inl rfl

/-- Settles O60: of a build's own record R15 says it, of NUM_REF the lemmas above. -/
theorem numericRecordsMeetRanges : Obligations.NumericRecordsMeetRanges := by
  intro num
  rcases num.fns_cases with h | h
  · rw [h]
    refine ⟨⟨rfl, rfl, rfl⟩, NumRef.atan2_nan, fun _ => ⟨rfl, rfl⟩, fun a ha => ?_, fun a ha => ?_, rfl,
      fun y x => NumRef.atan2_within, fun x hx => ?_, fun x hx => ?_, by decide +kernel, by decide +kernel,
      fun a => NumRef.exp2_pos⟩
    · exact ⟨(NumRef.cos_within ha).1, (NumRef.cos_within ha).2, NumRef.sin_within ha⟩
    · exact ⟨NumRef.cos_isZero ha, NumRef.exp2_isZero ha⟩
    · rcases hx with hx | rfl
      · exact (NumRef.atan2_zero (F.lt_iff.1 hx).2.1).trans (by rw [NumRef.signBit_of_pos hx]; rfl)
      · rfl
    · exact (NumRef.atan2_zero (F.lt_iff.1 hx).1).trans (by rw [NumRef.signBit_of_neg hx]; rfl)
  · obtain ⟨hcos, hsin, hexp, hatan⟩ := h.nan_operand
    obtain ⟨hzero, hone, hneg⟩ := h.exp2_ends
    refine ⟨⟨hcos, hsin, hexp⟩, hatan, h.inf_operand, fun a ha => ?_, fun a ha => ⟨h.cos_zero a ha, hzero a ha⟩,
      h.sin_zero, fun y x hy hx => ?_, h.atan2_right, h.atan2_left, hone, hneg, fun a ha => ?_⟩
    · obtain ⟨hcfin, hclow, hchigh⟩ := h.cos_range a ha
      obtain ⟨hsfin, hslow, hshigh⟩ := h.sin_range a ha
      exact ⟨hcfin, by rw [F.within, hclow, hchigh]; rfl, hsfin, by rw [F.within, hslow, hshigh]; rfl⟩
    · obtain ⟨hfin, hlow, hhigh⟩ := h.atan2_range y x hy hx
      exact ⟨hfin, by rw [F.within, hlow, hhigh]; rfl⟩
    · rw [F.within, Bool.and_eq_true] at ha
      exact h.exp2_range a ha.1 ha.2

end Sys2Proof
end

section
/-! SUPPORT. Bounds on what the operations on `F` answer: a result whose exact value is at most a finite magnitude is
finite and at most that magnitude (00_scope.md R14, R17), and which signs they keep. -/

namespace Sys2Proof

namespace F

/-! ### Data of at most a magnitude -/

/-- A finite datum of magnitude at most `m`. -/
def AtMost (m : Mag) (a : F) : Prop := a.isFinite = true ∧ |a.rank| ≤ m.units

theorem atMost_fin {m k : Mag} {s : Bool} (h : k.units ≤ m.units) : AtMost m (.fin s k) := by
  refine ⟨rfl, ?_⟩
  rw [rank_fin, abs_finUnits]
  exact_mod_cast h

theorem atMost_zero (m : Mag) : AtMost m .zero := atMost_fin (k := ⟨0, by decide⟩) (Nat.zero_le _)

theorem AtMost.neg {m : Mag} {a : F} (h : AtMost m a) : AtMost m (neg a) :=
  ⟨by rw [isFinite_neg, h.1], by rw [rank_neg h.1, abs_neg]; exact h.2⟩

/-- An exact value at most a magnitude is narrowed to at most that magnitude, so not to an infinity. -/
theorem round_atMost {neg : Bool} {n d : Nat} {m : Mag} (hd : 0 < d) (h : n ≤ m.units * d) :
    AtMost m (round neg n d) := by
  have hbits : roundBits n d ≤ m.val := roundBits_le hd (by rwa [bitUnits_val])
  have hfin : roundBits n d < 0x7F800000 := hbits.trans_lt m.isLt
  rw [round, dif_pos hfin]
  refine atMost_fin ?_
  rw [← bitUnits_val, ← bitUnits_val]
  exact bitUnits_strictMono.monotone hbits

theorem AtMost.add {p q m : Mag} {a b : F} (ha : AtMost p a) (hb : AtMost q b) (h : p.units + q.units ≤ m.units) :
    AtMost m (add a b) := by
  obtain ⟨hafin, hap⟩ := ha
  obtain ⟨hbfin, hbq⟩ := hb
  obtain ⟨s, ma, rfl⟩ := isFinite_iff.1 hafin
  obtain ⟨t, mb, rfl⟩ := isFinite_iff.1 hbfin
  have hsum : |finUnits s ma + finUnits t mb| ≤ p.units + q.units := (abs_add_le _ _).trans (add_le_add hap hbq)
  rw [Int.abs_eq_natAbs] at hsum
  rw [add_fin]
  split
  · exact atMost_fin (k := ⟨0, by decide⟩) (Nat.zero_le _)
  · exact round_atMost Nat.one_pos (by omega)

theorem AtMost.sub {p q m : Mag} {a b : F} (ha : AtMost p a) (hb : AtMost q b) (h : p.units + q.units ≤ m.units) :
    AtMost m (sub a b) := ha.add hb.neg h

theorem units_le_of_atMost_fin {s : Bool} {k m : Mag} (h : AtMost m (.fin s k)) : k.units ≤ m.units := by
  have := h.2
  rw [rank_fin, abs_finUnits] at this
  exact_mod_cast this

theorem AtMost.mul {p q m : Mag} {a b : F} (ha : AtMost p a) (hb : AtMost q b)
    (h : p.units * q.units ≤ m.units * 2 ^ 149) : AtMost m (mul a b) := by
  obtain ⟨s, ma, rfl⟩ := isFinite_iff.1 ha.1
  obtain ⟨t, mb, rfl⟩ := isFinite_iff.1 hb.1
  rw [mul_fin]
  exact round_atMost (by positivity)
    ((Nat.mul_le_mul (units_le_of_atMost_fin ha) (units_le_of_atMost_fin hb)).trans h)

/-- A quotient by at least 1. -/
theorem AtMost.div {m n : Mag} {t : Bool} {a : F} (ha : AtMost m a) (hn : 2 ^ 149 ≤ n.units) :
    AtMost m (div a (.fin t n)) := by
  obtain ⟨s, k, rfl⟩ := isFinite_iff.1 ha.1
  have hne : n.val ≠ 0 := by
    intro h0
    rw [← bitUnits_val, h0, show bitUnits 0 = 0 from rfl] at hn
    omega
  rw [F.div, if_neg hne]
  exact round_atMost (by omega) (Nat.mul_le_mul (units_le_of_atMost_fin ha) hn)

/-! ### Exact integers -/

/-- A magnitude that is a datum is narrowed to itself. -/
theorem round_exact {neg : Bool} {n d : Nat} {m : Mag} (hd : 0 < d) (h : n = m.units * d) :
    round neg n d = .fin neg m := by
  have hnear := (roundBits_nearest (n := n) hd m.val).1
  have heq : bitUnits (roundBits n d) * d = bitUnits m.val * d := by
    rw [bitUnits_val] at hnear ⊢
    omega
  have hbits : roundBits n d = m.val := bitUnits_strictMono.injective (Nat.eq_of_mul_eq_mul_right hd heq)
  have hfin : roundBits n d < 0x7F800000 := hbits ▸ m.isLt
  rw [round, dif_pos hfin]
  exact congrArg _ (Fin.ext hbits)

/-- A significand of at most 24 bits at a place is the value of some bits. -/
theorem exists_bitUnits {t : Nat} (k : Nat) (ht : t ≤ 2 ^ 24) : ∃ b, bitUnits b = t * 2 ^ k := by
  induction k generalizing t with
  | zero => exact ⟨0 * 2 ^ 23 + t, bitUnits_significand (.inl rfl) ht⟩
  | succ k ih =>
    rcases Nat.lt_or_ge t (2 ^ 23) with hlow | htop
    · obtain ⟨b, hb⟩ := ih (t := 2 * t) (by omega)
      exact ⟨b, by rw [hb, pow_succ]; ring⟩
    · exact ⟨(k + 1) * 2 ^ 23 + t, bitUnits_significand (.inr htop) ht⟩

/-- Below 2^277, a significand of at most 24 bits at a place is a finite magnitude. -/
theorem exists_units {t k : Nat} (ht : t ≤ 2 ^ 24) (h : t * 2 ^ k < 2 ^ 277) : ∃ m : Mag, m.units = t * 2 ^ k := by
  obtain ⟨b, hb⟩ := exists_bitUnits k ht
  have hinf : bitUnits 0x7F800000 = 2 ^ 277 := by decide +kernel
  have hlt : b < 0x7F800000 := bitUnits_strictMono.lt_iff_lt.1 (by omega)
  exact ⟨⟨b, hlt⟩, hb⟩

/-- A natural number that is a datum is converted exactly. -/
theorem ofInt_exact {v : Nat} {m : Mag} (h : m.units = v * 2 ^ 149) : ofInt (v : Int) = .fin false m := by
  rw [ofInt, decide_eq_false (by omega), Int.natAbs_natCast]
  exact round_exact Nat.one_pos (by rw [h, Nat.mul_one])

/-- Naturals of at most 24 bits are converted exactly (00_scope.md R17). -/
theorem ofInt_small {v : Nat} (h : v ≤ 2 ^ 24) : ∃ m : Mag, ofInt (v : Int) = .fin false m ∧ m.units = v * 2 ^ 149 := by
  obtain ⟨m, hm⟩ := exists_units (t := v) (k := 149) h (by omega)
  exact ⟨m, ofInt_exact hm, hm⟩

/-! ### Signs -/

theorem finUnits_false (m : Mag) : finUnits false m = m.units := rfl

@[simp] theorem rank_zero : zero.rank = 0 := rfl

theorem le_zero_iff {a : F} : le .zero a = true ↔ a ≠ .nan ∧ 0 ≤ a.rank := by
  rw [le_iff, rank_zero]
  exact ⟨fun h => h.2, fun h => ⟨by simp [zero], h⟩⟩

theorem not_zero_le_rank_inf_true : ¬ 0 ≤ (inf true).rank := by
  rw [rank, if_pos rfl, not_le, neg_lt_zero]
  positivity

theorem zero_le_rank_inf_false : 0 ≤ (inf false).rank := by
  rw [rank, if_neg Bool.false_ne_true]
  positivity

theorem isNonneg_iff {a : F} : a.isNonneg = true ↔ a = .inf false ∨ ∃ m, a = .fin false m := by
  rcases a with _ | ⟨_ | _⟩ | ⟨_ | _, m⟩ <;> simp [isNonneg]

theorem le_zero_of_isNonneg {a : F} (h : a.isNonneg = true) : le .zero a = true := by
  obtain rfl | ⟨m, rfl⟩ := isNonneg_iff.1 h
  · exact le_zero_iff.2 ⟨by simp, zero_le_rank_inf_false⟩
  · exact le_zero_iff.2 ⟨by simp, Int.natCast_nonneg _⟩

theorem round_isNonneg (n d : Nat) : (round false n d).isNonneg = true := by
  rcases round_cases false n d with ⟨m, h⟩ | h <;> rw [h] <;> rfl

theorem add_isNonneg {a b : F} (ha : a.isNonneg = true) (hb : b.isNonneg = true) : (add a b).isNonneg = true := by
  obtain rfl | ⟨m, rfl⟩ := isNonneg_iff.1 ha
  · obtain rfl | ⟨n, rfl⟩ := isNonneg_iff.1 hb <;> rfl
  · obtain rfl | ⟨n, rfl⟩ := isNonneg_iff.1 hb
    · rfl
    · have hsum : ¬ finUnits false m + finUnits false n < 0 := by
        rw [finUnits_false, finUnits_false]
        omega
      rw [add_fin]
      split
      · rfl
      · rw [decide_eq_false hsum]
        exact round_isNonneg _ _

/-- A sum of data from ±0 up is from ±0 up. -/
theorem le_zero_add {a b : F} (ha : le .zero a = true) (hb : le .zero b = true) : le .zero (add a b) = true := by
  rw [le_zero_iff] at ha hb ⊢
  obtain ⟨hane, ha⟩ := ha
  obtain ⟨hbne, hb⟩ := hb
  rcases a with _ | ⟨_ | _⟩ | ⟨s, m⟩
  · exact absurd rfl hane
  · rcases b with _ | ⟨_ | _⟩ | ⟨t, n⟩
    · exact absurd rfl hbne
    · exact ⟨by decide, ha⟩
    · exact absurd hb not_zero_le_rank_inf_true
    · exact ⟨by simp [add], ha⟩
  · exact absurd ha not_zero_le_rank_inf_true
  · rcases b with _ | ⟨_ | _⟩ | ⟨t, n⟩
    · exact absurd rfl hbne
    · exact ⟨by simp [add], hb⟩
    · exact absurd hb not_zero_le_rank_inf_true
    · rw [rank_fin] at ha hb
      rw [add_fin]
      split
      · exact ⟨by simp, by rw [rank_fin, finUnits_zero]⟩
      · rw [decide_eq_false (by omega)]
        exact le_zero_iff.1 (le_zero_of_isNonneg (round_isNonneg _ _))

/-- A square is NaN or has its sign bit clear. -/
theorem mul_self_sign (a : F) : mul a a = .nan ∨ (mul a a).isNonneg = true := by
  rcases a with _ | s | ⟨s, m⟩
  · exact .inl rfl
  · cases s <;> exact .inr rfl
  · rw [mul_fin, Bool.xor_self]
    exact .inr (round_isNonneg _ _)

theorem sqrt_sign {a : F} (h : a.isNonneg = true) : (sqrt a).isNonneg = true := by
  obtain rfl | ⟨m, rfl⟩ := isNonneg_iff.1 h
  · rfl
  · unfold sqrt
    dsimp only
    split
    · rfl
    · rw [if_neg Bool.false_ne_true]
      exact round_isNonneg _ _

/-! ### Comparisons of what is not NaN -/

theorem le_of_not_lt {a b : F} (ha : a ≠ .nan) (hb : b ≠ .nan) (h : ¬ lt a b = true) : le b a = true := by
  rw [lt_iff] at h
  exact le_iff.2 ⟨hb, ha, by by_contra hlt; exact h ⟨ha, hb, by omega⟩⟩

theorem le_of_lt {a b : F} (h : lt a b = true) : le a b = true := by
  obtain ⟨ha, hb, hlt⟩ := lt_iff.1 h
  exact le_iff.2 ⟨ha, hb, hlt.le⟩

theorem le_self {a : F} (h : a ≠ .nan) : le a a = true := le_iff.2 ⟨h, h, Int.le_refl _⟩

theorem within_iff {lo hi a : F} : within lo hi a = true ↔ le lo a = true ∧ le a hi = true := by
  rw [within, Bool.and_eq_true]

/-- A clamp lies within its bounds, of NaN too: NaN is answered by the lower one. -/
theorem clamp_within {lo hi : F} (a : F) (h : le lo hi = true) : within lo hi (clamp a lo hi) = true := by
  obtain ⟨hlo, hhi, -⟩ := le_iff.1 h
  rw [within_iff, clamp, F.max]
  split
  · next hlt =>
    refine ⟨le_of_lt hlt, ?_⟩
    unfold F.min at hlt ⊢
    split
    · exact le_self hhi
    · next hnot =>
      rw [if_neg hnot] at hlt
      exact le_of_not_lt hhi (lt_iff.1 hlt).2.1 hnot
  · exact ⟨le_self hlo, h⟩

end F

end Sys2Proof
end

section
/-! SUPPORT. What a build of the engine keeps to (00_scope.md R6): its numbers, its tables (R9 to R11), and the ranges
of its parameter mappings (47_facade.md R231 to R238). -/

namespace Sys2Proof

/-! ### The constraints of R6 -/

/-- The constraints of 00_scope.md R6 that the invariants rest on, by name. -/
structure Cfg.IsBuild (c : Cfg) : Prop where
  nPow : c.n = 2 ^ c.log2n
  nLow : 4 ≤ c.n
  nHigh : c.n ≤ 32768
  haLow : 1 ≤ c.ha
  haHigh : c.ha ≤ c.n
  stretchLow : 1 ≤ c.maxStretch
  hsMaxHigh : c.hsMax ≤ 2 ^ 17
  ringTwice : 2 * c.n ≤ c.l
  bufHigh : c.maxBlkHw ≤ 2 ^ 21 - 1
  synthesis : c.ws.synthesisOk c.n = true
  snapLow : F.le .zero c.snapW = true
  seed : c.seed ≠ 0

theorem Cfg.isBuild {c : Cfg} (h : c.wf = true) : c.IsBuild := by
  simp only [Cfg.wf, List.all_cons, List.all_nil, id_eq, Bool.and_true, Bool.and_eq_true, decide_eq_true_eq] at h
  obtain ⟨hpow, hlow, hhigh, hha, hhan, hms, hhs, hl, -, -, hbuf, -, hws, -, -, -, -, -, hsnap, -, hseed⟩ := h
  exact ⟨hpow, hlow, hhigh, hha, hhan, hms, hhs, hl, hbuf, hws, hsnap, hseed⟩

namespace Cfg.IsBuild

variable {c : Cfg}

theorem two_h (hc : c.IsBuild) : 2 * c.h = c.n := by
  have hpos : c.log2n ≠ 0 := by
    intro h0
    have := hc.nPow
    rw [h0] at this
    have := hc.nLow
    omega
  obtain ⟨k, hk⟩ := Nat.exists_eq_succ_of_ne_zero hpos
  have := hc.nPow
  rw [hk, pow_succ] at this
  rw [Cfg.h]
  omega

theorem h_succ_lt_n (hc : c.IsBuild) : c.h + 1 < c.n := by
  have := hc.two_h
  have := hc.nLow
  omega

theorem ha_le_hsMax (hc : c.IsBuild) : c.ha ≤ c.hsMax := Nat.le_mul_of_pos_right _ hc.stretchLow

theorem ring_pos (hc : c.IsBuild) : 0 < c.l := by
  have := hc.ringTwice
  have := hc.nLow
  omega

theorem bitrev_lt_n (hc : c.IsBuild) (k : Nat) : bitrev c.log2n k < c.n := by
  have := bitrev_lt c.log2n k
  rwa [← hc.nPow] at this

end Cfg.IsBuild

/-! ### The synthesis window -/

theorem hann_finite (n j : Nat) : (hann n j).isFinite = true ∧ F.le .zero (hann n j) = true := by
  unfold hann
  dsimp only
  generalize (if (Trig.cosTurn (turnOf n j).1 (turnOf n j).2).1 then _ else _ : Nat) = v
  rcases F.round_cases false v (2 * 2 ^ 551) with ⟨m, h⟩ | h
  · rw [h]
    exact ⟨rfl, F.le_zero_of_isNonneg rfl⟩
  · rw [h]
    exact ⟨rfl, F.le_zero_of_isNonneg rfl⟩

/-- Every entry of the synthesis window is finite and not negative (00_scope.md R6, R11). -/
theorem Cfg.IsBuild.wsAt_finite {c : Cfg} (hc : c.IsBuild) (j : Nat) :
    (c.wsAt j).isFinite = true ∧ F.le .zero (c.wsAt j) = true := by
  have hws := hc.synthesis
  unfold Cfg.wsAt
  cases hw : c.ws with
  | hann => exact hann_finite c.n j
  | table es =>
    rw [hw] at hws
    simp only [Window.synthesisOk, Bool.and_eq_true, List.all_eq_true] at hws
    obtain ⟨⟨-, hfin⟩, hnonneg⟩ := hws
    rw [Window.entry]
    rcases Nat.lt_or_ge j es.length with hj | hj
    · rw [List.getD_eq_getElem _ _ hj]
      exact ⟨hfin _ (List.getElem_mem hj), hnonneg _ (List.getElem_mem hj)⟩
    · rw [List.getD_eq_default _ _ hj]
      exact ⟨rfl, by decide⟩

/-! ### The frequency tables -/

/-- The magnitude of `TWO_PI`. -/
def NumRef.twoPiMag : Mag := ⟨0x40C90FDB, by decide⟩

theorem units_twoPiMag : NumRef.twoPiMag.units = 2 * NumRef.piMag.units := by decide +kernel

/-- `PI` lies above π. -/
theorem pi_le_piMag : Trig.pi ≤ NumRef.piMag.units * 2 ^ 551 := by decide +kernel

theorem turnFraction_atMost {n k : Nat} {m : Mag} (hn : 0 < n) (h : 2 * NumRef.piMag.units * k ≤ m.units * n) :
    F.AtMost m (turnFraction n k) := by
  refine F.round_atMost (by positivity) ?_
  have hpi := Nat.mul_le_mul_left (2 * k) pi_le_piMag
  have hscaled := Nat.mul_le_mul_right (2 ^ 551) h
  generalize 2 ^ 551 = e at hpi hscaled ⊢
  calc 2 * Trig.pi * k = 2 * k * Trig.pi := by ring
    _ ≤ 2 * k * (NumRef.piMag.units * e) := hpi
    _ = 2 * NumRef.piMag.units * k * e := by ring
    _ ≤ m.units * n * e := hscaled
    _ = m.units * (n * e) := by ring

/-- The centre frequency of a bin is at most `PI` (00_scope.md R10). -/
theorem Cfg.IsBuild.omega_atMost {c : Cfg} (hc : c.IsBuild) {k : Nat} (hk : k ≤ c.h) :
    F.AtMost NumRef.piMag (c.omega k) := by
  refine turnFraction_atMost (by have := hc.nLow; omega) ?_
  rw [← hc.two_h]
  calc 2 * NumRef.piMag.units * k ≤ 2 * NumRef.piMag.units * c.h := Nat.mul_le_mul_left _ hk
    _ = NumRef.piMag.units * (2 * c.h) := by ring

/-- The expected advance of a bin is at most `TWO_PI` (00_scope.md R10). -/
theorem Cfg.IsBuild.expAdv_atMost {c : Cfg} (hc : c.IsBuild) (k : Nat) : F.AtMost NumRef.twoPiMag (c.expAdv k) := by
  have hn : 0 < c.n := by have := hc.nLow; omega
  refine turnFraction_atMost hn ?_
  rw [units_twoPiMag]
  exact Nat.mul_le_mul_left _ (Nat.mod_lt _ hn).le

/-! ### Parameters and their mappings -/

namespace F

theorem isUnit_within {p : F} (h : p.isUnit = true) : within .zero .one p = true := by
  rw [isUnit, Bool.and_eq_true] at h
  exact h.1

theorem units_oneMag : NumRef.oneMag.units = 2 ^ 149 := by decide +kernel

theorem rank_one : one.rank = 2 ^ 149 := by decide +kernel

/-- A datum from 0 to 1 is at most 1 in magnitude. -/
theorem atMost_one_of_within {p : F} (h : within .zero .one p = true) : AtMost NumRef.oneMag p := by
  obtain ⟨hlow, hhigh⟩ := within_iff.1 h
  rw [le_zero_iff] at hlow
  obtain ⟨-, -, hle⟩ := le_iff.1 hhigh
  rw [rank_one] at hle
  rcases p with _ | s | ⟨s, m⟩
  · exact absurd rfl hlow.1
  · cases s
    · exact absurd h (by decide +kernel)
    · exact absurd hlow.2 not_zero_le_rank_inf_true
  · refine ⟨rfl, ?_⟩
    rw [abs_of_nonneg hlow.2, units_oneMag]
    exact_mod_cast hle

/-- A datum of at most an integer is rounded to at most that integer. -/
theorem rhaz_le {a : F} {m : Mag} {v : Nat} (ha : AtMost m a) (hm : m.units = v * 2 ^ 149) : rhaz a ≤ v := by
  obtain ⟨s, k, rfl⟩ := isFinite_iff.1 ha.1
  have hk := units_le_of_atMost_fin ha
  rw [hm] at hk
  have hquot : (2 * k.units + 2 ^ 149) / 2 ^ 150 ≤ v := by omega
  rw [rhaz, rhazFin]
  split <;> omega

end F

namespace Machine

/-- The bin of a parameter is at most H (47_facade.md R235, R236). -/
theorem mapBinFraction_le {c : Cfg} (hc : c.IsBuild) {p : F} (hp : F.within .zero .one p = true) :
    mapBinFraction c p ≤ c.h := by
  obtain ⟨m, hm, hunits⟩ := F.ofInt_small (v := c.h) (by have := hc.h_succ_lt_n; have := hc.nHigh; omega)
  have hprod : F.AtMost m (F.mul p (F.ofInt c.h)) := by
    rw [hm]
    refine (F.atMost_one_of_within hp).mul (F.atMost_fin (Nat.le_refl _)) ?_
    rw [F.units_oneMag, Nat.mul_comm]
  have := F.rhaz_le hprod hunits
  rw [mapBinFraction]
  omega

theorem one_within_stretch : F.within .quarter .four .one = true := by decide +kernel

theorem one_within_pitch : F.within .half .two .one = true := by decide +kernel

theorem mapStretch_within (c : Cfg) (p : F) : F.within .quarter .four (mapStretch c p) = true := by
  unfold mapStretch
  split
  · exact one_within_stretch
  · exact F.clamp_within _ (by decide +kernel)

theorem mapPitch_within (c : Cfg) (p : F) : F.within .half .two (mapPitch c p) = true := by
  unfold mapPitch
  split
  · exact one_within_pitch
  · exact F.clamp_within _ (by decide +kernel)

/-- What is published from normalized parameters lies in the ranges of 10_state.md R43. -/
theorem mappedOf_inRange {c : Cfg} (hc : c.IsBuild) {r : ParamRegs} (h : r.isUnit = true) :
    (mappedOf c r).InRange c := by
  simp only [ParamRegs.isUnit, Bool.and_eq_true] at h
  obtain ⟨⟨⟨-, hgthr⟩, hglo⟩, hghi⟩ := h.1
  exact {
    stretch := mapStretch_within c _
    pitch := mapPitch_within c _
    gthr := F.isUnit_within hgthr
    glo := mapBinFraction_le hc (F.isUnit_within hglo)
    ghi := mapBinFraction_le hc (F.isUnit_within hghi)
    smear := F.isUnit_within h.2 }

/-- What a finite write leaves is a normalized parameter (47_facade.md R230). -/
theorem clampUnit_isUnit {v : F} (h : v.isFinite = true) : (clampUnit v).isUnit = true := by
  unfold clampUnit
  split
  · decide +kernel
  · next hlow =>
    split
    · decide +kernel
    · next hhigh =>
      split
      · decide +kernel
      · next hzero =>
        have hnan := F.ne_nan_of_isFinite h
        have hwithin : F.within .zero .one v = true :=
          F.within_iff.2 ⟨F.le_of_not_lt hnan (by decide) hlow, F.le_of_not_lt (by decide) hnan hhigh⟩
        rw [F.isUnit, hwithin, Bool.true_and, decide_eq_true_eq]
        rintro rfl
        exact hzero rfl

theorem set_isUnit {r : ParamRegs} {v : F} (i : ParamIndex) (h : r.isUnit = true) (hv : v.isUnit = true) :
    (r.set v i).isUnit = true := by
  simp only [ParamRegs.isUnit, Bool.and_eq_true] at h ⊢
  obtain ⟨⟨⟨⟨⟨⟨hstretch, hpitch⟩, hfreeze⟩, hgthr⟩, hglo⟩, hghi⟩, hsmear⟩ := h
  cases i <;> simp only [ParamRegs.set, hv, hstretch, hpitch, hfreeze, hgthr, hglo, hghi, hsmear, and_self]

/-- Publishing a stored parameter keeps the published set the one mapped from all seven. -/
theorem publish_mappedOf (c : Cfg) (r : ParamRegs) (v : F) (i : ParamIndex) :
    publish c v (mappedOf c r) i = mappedOf c (r.set v i) := by
  cases i <;> rfl

/-! ### Parameters after hardware reset -/

theorem sub_half_half : F.abs (F.sub .half .half) = .zero := by decide +kernel

theorem half_inSnapBand {c : Cfg} (hc : c.IsBuild) : inSnapBand c .half = true := by
  rw [inSnapBand, sub_half_half]
  exact hc.snapLow

/-- The bin of the largest parameter is H. -/
theorem mapBinFraction_one {c : Cfg} (hc : c.IsBuild) : mapBinFraction c .one = c.h := by
  obtain ⟨m, hm, hunits⟩ := F.ofInt_small (v := c.h) (by have := hc.h_succ_lt_n; have := hc.nHigh; omega)
  have hone : F.one = .fin false NumRef.oneMag := by decide +kernel
  have hprod : F.mul .one (F.ofInt c.h) = .fin false m := by
    rw [hm, hone, F.mul_fin, Bool.xor_self]
    exact F.round_exact (by positivity) (by rw [F.units_oneMag, Nat.mul_comm])
  rw [mapBinFraction, hprod, F.rhaz, F.rhazFin, if_neg Bool.false_ne_true, hunits]
  omega

theorem mapBinFraction_zero {c : Cfg} (hc : c.IsBuild) : mapBinFraction c .zero = 0 := by
  obtain ⟨m, hm, -⟩ := F.ofInt_small (v := c.h) (by have := hc.h_succ_lt_n; have := hc.nHigh; omega)
  have hprod : F.mul .zero (F.ofInt c.h) = .zero := by
    rw [hm, F.zero, F.mul_fin, Bool.xor_self]
    exact F.round_exact (by positivity) (by rw [show Mag.units ⟨0, by decide⟩ = 0 from rfl, Nat.zero_mul, Nat.zero_mul])
  rw [mapBinFraction, hprod]
  rfl

/-- The reset value of `PUB` is mapped from the reset value of `PARAM` (10_state.md R43). -/
theorem reset_mappedOf {c : Cfg} (hc : c.IsBuild) : Mapped.reset c.n = mappedOf c .reset := by
  have hhalf := half_inSnapBand hc
  have hstretch : mapStretch c .half = .one := by rw [mapStretch, if_pos hhalf]
  have hpitch : mapPitch c .half = .one := by rw [mapPitch, if_pos hhalf]
  have hfreeze : mapFreeze .zero = false := by decide +kernel
  rw [mappedOf, ParamRegs.reset, Mapped.reset]
  dsimp only
  rw [hstretch, hpitch, hfreeze, mapBinFraction_zero hc, mapBinFraction_one hc, Cfg.h]

theorem reset_isUnit : ParamRegs.reset.isUnit = true := by decide +kernel

end Machine

end Sys2Proof
end

section
/-! SUPPORT. What a command can do, said once: the equation of the pipeline commands, the ways a command, an access and
a step end, so that a property is carried along a step by carrying it along each of these. -/

namespace Sys2Proof.Machine

/-! ### Commands -/

/-- The operand check of a pipeline command (30_encoding.md R114). -/
def operandsOk (s : State) : Instr → Bool
  | .push i => blockIndexOk s i
  | .pop i => blockIndexOk s i
  | .process n => blockLengthOk s n
  | .bfly _ stage q => butterflyOk s stage q
  | .nop | .prepare _ _ | .reset | .frame | .extract | .loadx | .bitrev | .zim | .scaley | .fftf | .ffti | .polar
  | .track | .modify | .accum | .herm | .olaw => true

/-- The body of a pipeline command; the three commands that need no prepared engine have none. -/
def pipelineBody : Instr → State → State
  | .process n => bodyProcess n
  | .frame => bodyFrame
  | .push i => bodyPush i
  | .extract => bodyExtract
  | .loadx => bodyLoadx
  | .bitrev => bodyBitrev
  | .bfly inv stage q => bodyBfly inv stage q
  | .zim => bodyZim
  | .scaley => bodyScaley
  | .fftf => bodyFftf
  | .ffti => bodyFfti
  | .polar => bodyPolar
  | .track => bodyTrack
  | .modify => bodyModify
  | .accum => bodyAccum
  | .herm => bodyHerm
  | .olaw => bodyOlaw
  | .pop i => bodyPop i
  | .nop | .prepare _ _ | .reset => id

theorem exec_eq_pipelineCommand {i : Instr} (s : State) (h : needsPrepared i = true) :
    exec i s = pipelineCommand (operandsOk s i) (pipelineBody i) s := by
  cases i with
  | nop | prepare | reset => cases h
  | _ => rfl

/-- The ways a command ends: it is refused, `PREPARE` fails, one of the three lifecycle commands succeeds, or the body
of a pipeline command runs on a prepared engine. -/
theorem exec_cases {i : Instr} {s t : State} (h : exec i s = .next t) :
    (∃ r, r ≠ .ok ∧ t = refusedWith r s)
    ∨ (∃ v m, i = .prepare v m) ∧ t = { refusedWith .prepFail s with lstate := .cold }
    ∨ i = .nop ∧ t = finish .ok s
    ∨ (∃ v m variant, i = .prepare v m ∧ preparable s v m = some variant ∧ t = finish .ok (prepared variant m s))
    ∨ i = .reset ∧ t = finish .ok (bodyReset s)
    ∨ s.lstate ≠ .cold ∧ operandsOk s i = true ∧ t = finish .ok (pipelineBody i s) := by
  by_cases hneeds : needsPrepared i = true
  · rw [exec_eq_pipelineCommand s hneeds] at h
    rcases pipelineCommand_cases h with ⟨-, ht⟩ | ⟨-, -, ht⟩ | hruns
    · exact .inl ⟨_, by decide, ht⟩
    · exact .inl ⟨_, by decide, ht⟩
    · exact .inr (.inr (.inr (.inr (.inr hruns))))
  · cases i with
    | nop =>
      cases h
      exact .inr (.inr (.inl ⟨rfl, rfl⟩))
    | prepare v m =>
      have hexec : exec (.prepare v m) s = execPrepare v m s := rfl
      rw [hexec, execPrepare] at h
      split at h
      · next variant hprep =>
        cases h
        exact .inr (.inr (.inr (.inl ⟨v, m, variant, rfl, hprep, rfl⟩)))
      · cases h
        exact .inr (.inl ⟨⟨v, m, rfl⟩, finish_refused (by decide) _⟩)
    | reset =>
      cases h
      exact .inr (.inr (.inr (.inr (.inl ⟨rfl, rfl⟩))))
    | _ => exact absurd rfl hneeds

/-! ### Accesses and steps -/

/-- A property that every operation of the host port keeps is kept by every step of a build. -/
theorem step_keeps {P : State → Prop}
    (hpending : ∀ s rest, P s → P { s with pending := rest })
    (hread : ∀ s w, P s → P { s with rdata := w })
    (hwrite : ∀ s addr v, P s → P (plainWrite addr v s))
    (hillegal : ∀ s, P s → P (refusedWith .illegal s))
    (hexec : ∀ i s t, P s → exec i s = .next t → P t)
    (hreset : ∀ s, P s → P (hardwareReset s))
    {s t : State} (hs : P s) (h : step s = .next t) : P t := by
  rw [step] at h
  split at h
  · rw [performNext] at h
    split at h
    · cases h
      exact hs
    · next a rest _ =>
      have hs' := hpending s rest hs
      generalize ({ s with pending := rest } : State) = u at h hs'
      rcases access_cases a u with ⟨w, ha⟩ | ⟨addr, v, -, ha⟩ | ha | ⟨-, ha⟩
      · rw [ha] at h
        cases h
        exact hread u w hs'
      · rw [ha] at h
        rcases memWrite_cases addr v u with ⟨-, i, -, hm⟩ | ⟨-, e, -, hm⟩ | ⟨-, hm⟩
        · exact hexec i u t hs' (hm ▸ h)
        · rw [hm] at h
          cases h
          exact hillegal u hs'
        · rw [hm] at h
          cases h
          exact hwrite u addr v hs'
      · rw [ha] at h
        cases h
        exact hs'
      · rw [ha] at h
        cases h
        exact hreset u hs'
  · cases h

end Sys2Proof.Machine
end

section
/-! SUPPORT. The invariants of 10_state.md R60 and 46_overlap_add.md R219 through the operations that touch neither the
synthesis side nor the overlap-add ring: the frame buffer, the transforms, the tracker, and the end of a command. -/

namespace Sys2Proof.Machine

/-- A prepared engine that meets the invariants: what the body of a pipeline command starts from. -/
structure State.Running (s : State) : Prop where
  inv : s.Inv
  warm : s.lstate ≠ .cold

theorem State.Running.build {s : State} (h : s.Running) : s.cfg.IsBuild := Cfg.isBuild h.inv.build

theorem State.Running.streaming {s : State} (h : s.Running) : s.Streaming := h.inv.streaming h.warm

/-- `State.EnvelopeBounded` speaks of the writer, the number of unread cells and `ENV` only. -/
theorem State.EnvelopeBounded.congr {s t : State} (h : s.EnvelopeBounded) (hcfg : t.cfg = s.cfg)
    (hwpos : t.wpos = s.wpos) (havail : t.avail = s.avail) (henv : t.env = s.env) : t.EnvelopeBounded := by
  constructor
  · rw [hcfg, henv]
    exact h.finite
  · rw [hcfg, henv]
    exact h.cells
  · rw [hcfg, henv, hwpos, havail]
    exact h.ahead

/-- What `State.Streaming` does not speak of may change: it reads `CFG`, `MAXBLK`, the ring's positions, `MAG`,
`CURMAG`, `CURIF`, `SMAG`, `OLA` and `ENV`. -/
theorem State.Streaming.elsewhere {s : State} (h : s.Streaming) {lstate : LState} {variant : Variant}
    {arg0 srate : Word} {result : ResultCode} {cmderr : Bool}
    {cseq diagNi diagBbv diagPor produced warmz framecnt : Word} {param : ParamRegs} {pub act : Mapped}
    {rwp hopcnt hs preroll : Nat} {prng : Word} {ring frame xr xi ph tif lastph synph sif phi y : Arr} {buf : Memory}
    {pending : List HostAccess} {rdata : Word} {draws : Nat} :
    State.Streaming { s with
      lstate := lstate, variant := variant, arg0 := arg0, srate := srate, result := result, cmderr := cmderr
      cseq := cseq, diagNi := diagNi, diagBbv := diagBbv, diagPor := diagPor, produced := produced, warmz := warmz
      framecnt := framecnt, param := param, pub := pub, act := act, rwp := rwp, hopcnt := hopcnt, hs := hs
      preroll := preroll, prng := prng, ring := ring, frame := frame, xr := xr, xi := xi, ph := ph, tif := tif
      lastph := lastph, synph := synph, sif := sif, phi := phi, y := y, buf := buf, pending := pending
      rdata := rdata, draws := draws } :=
  { h with envelope := fun hw => (h.envelope hw).congr rfl rfl rfl rfl }

/-- A memory whose content no invariant speaks of need only keep its canonical form. -/
theorem State.Running.scratch {s : State} (h : s.Running) {ring frame xr xi ph tif lastph synph sif phi y : Arr}
    (hm : State.MemoriesWf { s with
      ring := ring, frame := frame, xr := xr, xi := xi, ph := ph, tif := tif, lastph := lastph, synph := synph
      sif := sif, phi := phi, y := y }) :
    State.Running { s with
      ring := ring, frame := frame, xr := xr, xi := xi, ph := ph, tif := tif, lastph := lastph, synph := synph
      sif := sif, phi := phi, y := y } where
  inv := { h.inv with
    memories := hm
    streaming := fun hc => (h.inv.streaming hc).elsewhere }
  warm := h.warm

/-- Counters, what the host last wrote or read, and what a command reports stand in no invariant. -/
theorem State.Inv.bookkeeping {s : State} (h : s.Inv) {variant : Variant} {arg0 srate : Word} {result : ResultCode}
    {cmderr : Bool} {cseq diagNi diagBbv diagPor produced warmz framecnt : Word} {pending : List HostAccess}
    {rdata : Word} {draws : Nat} :
    State.Inv { s with
      variant := variant, arg0 := arg0, srate := srate, result := result, cmderr := cmderr, cseq := cseq
      diagNi := diagNi, diagBbv := diagBbv, diagPor := diagPor, produced := produced, warmz := warmz
      framecnt := framecnt, pending := pending, rdata := rdata, draws := draws } :=
  { h with
    memories := { h.memories with }
    streaming := fun hc => (h.streaming hc).elsewhere }

theorem State.Inv.raiseGuard {s : State} (g : Guard) (h : s.Inv) : (raiseGuard g s).Inv := by
  cases g <;> exact h.bookkeeping

theorem running_raiseGuard {s : State} (g : Guard) (h : s.Running) : (raiseGuard g s).Running :=
  ⟨h.inv.raiseGuard g, by rw [raiseGuard_lstate]; exact h.warm⟩

theorem State.Inv.finish {s : State} (r : ResultCode) (h : s.Inv) : (finish r s).Inv := h.bookkeeping

theorem State.Inv.refusedWith {s : State} (r : ResultCode) (h : s.Inv) : (refusedWith r s).Inv := h.bookkeeping

/-! ### Elements of a memory -/

/-- What holds of every value filled in holds of every element filled. -/
theorem Arr.fill_all {Q : F → Prop} {a : Arr} {n : Nat} {f : Nat → F} (hf : ∀ k, k ≤ n → Q (f k)) :
    ∀ k, k ≤ n → Q (Arr.get (Arr.fill a (n + 1) f) k) := by
  intro k hk
  rw [Arr.get_fill, if_pos (Nat.lt_succ_of_le hk)]
  exact hf k hk

/-- What holds of every element and of a value written holds of every element after the write. -/
theorem Arr.set_all {Q : F → Prop} {a : Arr} {n i : Nat} {v : F} (ha : ∀ k, k ≤ n → Q (Arr.get a k)) (hv : Q v) :
    ∀ k, k ≤ n → Q (Arr.get (Arr.set a i v) k) := by
  intro k hk
  rw [Arr.get_set]
  split
  · exact hv
  · exact ha k hk

/-! ### Frame buffer -/

theorem running_bodyPush {s : State} (i : Nat) (h : s.Running) : (bodyPush i s).Running where
  inv := { h.inv with
    rwp := Nat.mod_lt _ (by have := h.build.nLow; omega)
    hopcnt := by
      have := h.build.haLow
      have := h.inv.hopcnt
      show (if s.hopcnt = s.cfg.ha then 1 else s.hopcnt + 1) ≤ s.cfg.ha
      split <;> omega
    memories := { h.inv.memories with ring := Arr.wf_set _ h.inv.memories.ring h.inv.rwp }
    streaming := fun hc => (h.inv.streaming hc).elsewhere }
  warm := h.warm

theorem running_bodyExtract {s : State} (h : s.Running) : (bodyExtract s).Running :=
  h.scratch { h.inv.memories with frame := Arr.wf_fill _ h.inv.memories.frame (Nat.le_refl _) }

/-! ### Transforms -/

theorem running_bodyLoadx {s : State} (h : s.Running) : (bodyLoadx s).Running :=
  h.scratch { h.inv.memories with
    xr := forRange_keeps h.inv.memories.xr fun _ _ _ hw => Arr.wf_set _ hw (h.build.bitrev_lt_n _)
    xi := forRange_keeps h.inv.memories.xi fun _ _ _ hw => Arr.wf_set _ hw (h.build.bitrev_lt_n _) }

theorem wf_permute {c : Cfg} (hc : c.IsBuild) {a : Arr} (ha : Arr.wf c.n a) : Arr.wf c.n (permute c a) := by
  refine forRange_keeps ha fun k a hk hw => ?_
  split
  · exact Arr.wf_swap hw hk (hc.bitrev_lt_n k)
  · exact hw

theorem running_bodyBitrev {s : State} (h : s.Running) : (bodyBitrev s).Running :=
  h.scratch { h.inv.memories with
    xr := wf_permute h.build h.inv.memories.xr
    xi := wf_permute h.build h.inv.memories.xi }

/-- Both operands of an accepted butterfly lie in the workspace (42_fft.md R152). -/
theorem butterfly_lt {c : Cfg} (hc : c.IsBuild) {stage q : Nat} (hlow : 1 ≤ stage) (hhigh : stage ≤ c.log2n)
    (hq : q < c.h) : bflyA stage q < c.n ∧ bflyB stage q < c.n := by
  obtain ⟨j, rfl⟩ : ∃ j, stage = j + 1 := ⟨stage - 1, by omega⟩
  obtain ⟨r, hr⟩ : ∃ r, c.log2n = r + (j + 1) := ⟨c.log2n - (j + 1), by omega⟩
  have hn : c.n = 2 ^ r * (2 * 2 ^ j) := by rw [hc.nPow, hr, pow_add, pow_succ, Nat.mul_comm 2]
  have hhalf : 2 ^ (j + 1) / 2 = 2 ^ j := by rw [pow_succ]; omega
  have hpos : 0 < 2 ^ j := by positivity
  have hgroup : q / 2 ^ j < 2 ^ r := by
    rw [Nat.div_lt_iff_lt_mul hpos]
    have := hc.two_h
    have : 2 ^ r * (2 * 2 ^ j) = 2 * (2 ^ r * 2 ^ j) := by ring
    omega
  have hrest : q % 2 ^ j < 2 ^ j := Nat.mod_lt _ hpos
  have hgroups : (q / 2 ^ j + 1) * (2 * 2 ^ j) ≤ 2 ^ r * (2 * 2 ^ j) := Nat.mul_le_mul_right _ hgroup
  rw [bflyB, bflyA, hhalf, pow_succ, hn, Nat.mul_comm (2 ^ j) 2]
  rw [Nat.add_mul] at hgroups
  omega

theorem running_bodyBfly {s : State} (inv : Bool) {stage q : Nat} (h : s.Running) (hlow : 1 ≤ stage)
    (hhigh : stage ≤ s.cfg.log2n) (hq : q < s.cfg.h) : (bodyBfly inv stage q s).Running := by
  obtain ⟨ha, hb⟩ := butterfly_lt h.build hlow hhigh hq
  exact h.scratch { h.inv.memories with
    xr := Arr.wf_set _ (Arr.wf_set _ h.inv.memories.xr ha) hb
    xi := Arr.wf_set _ (Arr.wf_set _ h.inv.memories.xi ha) hb }

theorem running_bodyZim {s : State} (h : s.Running) : (bodyZim s).Running :=
  h.scratch { h.inv.memories with xi := Arr.wf_set_zero (Arr.wf_set_zero h.inv.memories.xi) }

theorem running_bodyScaley {s : State} (h : s.Running) : (bodyScaley s).Running :=
  h.scratch { h.inv.memories with y := Arr.wf_fill _ h.inv.memories.y (Nat.le_refl _) }

theorem running_stages {s : State} (inv : Bool) (h : s.Running) : (stages inv s).Running := by
  suffices (stages inv s).Running ∧ (stages inv s).cfg = s.cfg from this.1
  refine forSpan_keeps (P := fun t : State => t.Running ∧ t.cfg = s.cfg) ⟨h, rfl⟩ fun stage t hlow hhigh ht => ?_
  refine forRange_keeps (P := fun t : State => t.Running ∧ t.cfg = s.cfg) ht fun q u hq hu => ?_
  obtain ⟨hrun, hcfg⟩ := hu
  exact ⟨running_bodyBfly inv hrun hlow (by rwa [hcfg]) (by rwa [hcfg, ← ht.2]), hcfg⟩

theorem running_bodyFftf {s : State} (h : s.Running) : (bodyFftf s).Running :=
  running_bodyZim (running_stages false (running_bodyLoadx h))

theorem running_bodyFfti {s : State} (h : s.Running) : (bodyFfti s).Running :=
  running_bodyScaley (running_stages true (running_bodyBitrev h))

/-! ### Tracker -/

/-- A magnitude is NaN or not negative (43_phase_tracker.md R170). -/
theorem magnitude_sign (re im : F) : magnitude re im = .nan ∨ (magnitude re im).isNonneg = true := by
  unfold magnitude
  rcases F.mul_self_sign re with hre | hre
  · rw [hre]
    exact .inl rfl
  · rcases F.mul_self_sign im with him | him
    · rw [him, F.add_nan_right]
      exact .inl rfl
    · exact .inr (F.sqrt_sign (F.add_isNonneg hre him))

theorem running_bodyPolar {s : State} (h : s.Running) : (bodyPolar s).Running where
  inv := { h.inv with
    memories := { h.inv.memories with
      mag := Arr.wf_fill _ h.inv.memories.mag (Nat.le_refl _)
      ph := Arr.wf_fill _ h.inv.memories.ph (Nat.le_refl _) }
    streaming := fun _ =>
      { h.streaming with
        mag := Arr.fill_all (Q := fun v => v = .nan ∨ v.isNonneg = true) fun _ _ => magnitude_sign _ _
        envelope := fun hw => (h.streaming.envelope hw).congr rfl rfl rfl rfl } }
  warm := h.warm

theorem running_bodyTrack {s : State} (h : s.Running) : (bodyTrack s).Running :=
  h.scratch { h.inv.memories with
    tif := Arr.wf_fill _ h.inv.memories.tif (Nat.le_refl _)
    lastph := Arr.wf_fill _ h.inv.memories.lastph (Nat.le_refl _) }

/-! ### Rotator -/

theorem running_bodyAccum {s : State} (h : s.Running) : (bodyAccum s).Running := by
  have hsynph : Arr.wf (s.cfg.h + 1) (forSpan 1 s.cfg.h
      (fun k a => Arr.set a k (F.wrap (F.add (Arr.get a k) (advance s k)))) s.synph) :=
    forSpan_keeps h.inv.memories.synph fun _ _ _ hk ha => Arr.wf_set _ ha (Nat.lt_succ_of_le hk)
  exact h.scratch { h.inv.memories with synph := hsynph }

/-- A word that equals itself shifted has no bit set: each bit is copied from one that the shift has brought in. -/
theorem eq_zero_of_xor_shiftLeft {x : Word} {k : Nat} (hk : 0 < k) (h : x ^^^ x <<< k = 0) : x = 0 := by
  have heq : x = x <<< k := BitVec.xor_eq_zero_iff.1 h
  refine BitVec.eq_of_getLsbD_eq fun i hi => ?_
  rw [show (0 : Word) = 0#32 from rfl, BitVec.getLsbD_zero]
  induction i using Nat.strongRecOn with
  | _ i ih =>
    rw [heq, BitVec.getLsbD_shiftLeft]
    rcases Nat.lt_or_ge i k with hlt | hge
    · simp [hlt]
    · rw [ih (i - k) (by omega) (by omega), Bool.and_false]

theorem eq_zero_of_xor_ushiftRight {x : Word} {k : Nat} (hk : 0 < k) (h : x ^^^ x >>> k = 0) : x = 0 := by
  have heq : x = x >>> k := BitVec.xor_eq_zero_iff.1 h
  have hdiv : x.toNat = x.toNat / 2 ^ k := by
    have := congrArg BitVec.toNat heq
    rwa [BitVec.toNat_ushiftRight, Nat.shiftRight_eq_div_pow] at this
  by_contra hne
  have hpos : 0 < x.toNat := by
    rw [Nat.pos_iff_ne_zero]
    exact fun h0 => hne (BitVec.eq_of_toNat_eq h0)
  have := Nat.div_lt_self hpos (Nat.one_lt_two_pow (by omega : k ≠ 0))
  omega

/-- The generator does not reach 0: no stage of the shift takes a word that is not 0 to 0 (45_rotator.md R204). -/
theorem xorshift_ne_zero {x : Word} (h : x ≠ 0) : xorshift x ≠ 0 := by
  intro hzero
  exact h (eq_zero_of_xor_shiftLeft (by decide) (eq_zero_of_xor_ushiftRight (by decide)
    (eq_zero_of_xor_shiftLeft (by decide) hzero)))

theorem running_choosePhase {s : State} {k : Nat} (h : s.Running) (hk : k ≤ s.cfg.h) : (choosePhase k s).Running := by
  have hphi : ∀ v, Arr.wf (s.cfg.h + 1) (Arr.set s.phi k v) := fun v =>
    Arr.wf_set v h.inv.memories.phi (Nat.lt_succ_of_le hk)
  unfold choosePhase
  split
  · exact {
      inv := { h.inv with
        prng := xorshift_ne_zero h.inv.prng
        memories := { h.inv.memories with phi := hphi _ }
        streaming := fun _ => h.streaming.elsewhere }
      warm := h.warm }
  · exact h.scratch { h.inv.memories with phi := hphi _ }

theorem running_rotateBin {s : State} {k : Nat} (h : s.Running) (hk : k < s.cfg.n) : (rotateBin k s).Running :=
  h.scratch { h.inv.memories with
    xr := Arr.wf_set _ h.inv.memories.xr hk
    xi := Arr.wf_set _ h.inv.memories.xi hk }

theorem running_forceReal {s : State} (h : s.Running) : (forceReal s).Running :=
  h.scratch { h.inv.memories with xi := Arr.wf_set_zero (Arr.wf_set_zero h.inv.memories.xi) }

theorem running_mirrorBin {s : State} {k : Nat} (h : s.Running) (hk : k < s.cfg.n) : (mirrorBin k s).Running :=
  h.scratch { h.inv.memories with
    xr := Arr.wf_set _ h.inv.memories.xr hk
    xi := Arr.wf_set _ h.inv.memories.xi hk }

theorem choosePhase_cfg (k : Nat) (s : State) : (choosePhase k s).cfg = s.cfg := by
  obtain ⟨prng, phi, h⟩ := choosePhase_writes k s
  rw [h]

theorem running_bodyHerm {s : State} (h : s.Running) : (bodyHerm s).Running := by
  have hsize := h.build.h_succ_lt_n
  unfold bodyHerm
  dsimp only
  have hrotate := forRange_keeps (n := s.cfg.h + 1) (f := fun k s => rotateBin k (choosePhase k s))
    (P := fun t : State => t.Running ∧ t.cfg = s.cfg) ⟨h, rfl⟩ (by
      rintro k t hk ⟨hrun, hcfg⟩
      have hchoose := running_choosePhase (k := k) hrun (by rw [hcfg]; omega)
      exact ⟨running_rotateBin hchoose (by rw [choosePhase_cfg, hcfg]; omega), (choosePhase_cfg k t).trans hcfg⟩)
  generalize forRange (s.cfg.h + 1) _ s = u at hrotate ⊢
  obtain ⟨hrun, hcfg⟩ := hrotate
  refine (forSpan_keeps (P := fun t : State => t.Running ∧ t.cfg = u.cfg) ⟨running_forceReal hrun, rfl⟩ ?_).1
  rintro k t - hk ⟨hrun', hcfg'⟩
  have : k ≤ u.cfg.n - 1 := hk
  exact ⟨running_mirrorBin hrun' (by rw [hcfg', hcfg] at *; omega), hcfg'⟩

end Sys2Proof.Machine
end

section
/-! SUPPORT. The invariants through the modifier (44_modifier.md). -/

namespace Sys2Proof.Machine

/-- What the acceptance test of R181 asks. -/
theorem frameValid_iff {s : State} : frameValid s = true ↔ (Arr.get s.ph 0).isFinite = true
    ∧ ∀ k, k ≤ s.cfg.h → (Arr.get s.mag k).isFinite = true ∧ (Arr.get s.tif k).isFinite = true := by
  simp only [frameValid, Bool.and_eq_true, List.all_eq_true, List.mem_range, Nat.lt_succ_iff]

/-- The three things `MODIFY` can do with a frame (R181). -/
theorem acceptFrame_cases (s : State) : acceptFrame s = s
    ∨ acceptFrame s = raiseGuard .numericalInstability s
    ∨ frameValid s = true ∧ acceptFrame s = { s with
        curmag := Arr.fill s.curmag (s.cfg.h + 1) (fun k => Arr.get s.mag k)
        curif := Arr.fill s.curif (s.cfg.h + 1) (fun k => Arr.get s.tif k)
        synph := Arr.set s.synph 0 (F.wrap (Arr.get s.ph 0)) } := by
  unfold acceptFrame
  split
  · exact .inl rfl
  · split
    · exact .inr (.inr ⟨‹_›, rfl⟩)
    · exact .inr (.inl rfl)

theorem running_acceptFrame {s : State} (h : s.Running) : (acceptFrame s).Running := by
  rcases acceptFrame_cases s with heq | heq | ⟨hvalid, heq⟩
  · rwa [heq]
  · exact heq ▸ running_raiseGuard _ h
  · rw [heq]
    obtain ⟨-, hfin⟩ := frameValid_iff.1 hvalid
    exact {
      inv := { h.inv with
        memories := { h.inv.memories with
          curmag := Arr.wf_fill _ h.inv.memories.curmag (Nat.le_refl _)
          curif := Arr.wf_fill _ h.inv.memories.curif (Nat.le_refl _)
          synph := Arr.wf_set _ h.inv.memories.synph (Nat.succ_pos _) }
        streaming := fun _ =>
          { h.streaming with
            curmag := Arr.fill_all (Q := fun v => v.isFinite = true ∧ v.isNonneg = true) fun k hk =>
              ⟨(hfin k hk).1, (h.streaming.mag k hk).resolve_left (F.ne_nan_of_isFinite (hfin k hk).1)⟩
            curif := Arr.fill_all (Q := fun v => v.isFinite = true) fun k hk => (hfin k hk).2
            envelope := fun hw => (h.streaming.envelope hw).congr rfl rfl rfl rfl } }
      warm := h.warm }

/-- The synthesis side may hold any magnitudes that are not negative, and any frequencies. -/
theorem State.Running.synthesis {s : State} (h : s.Running) {smag sif : Arr} (hsmag : Arr.wf (s.cfg.h + 1) smag)
    (hsif : Arr.wf (s.cfg.h + 1) sif) (hsign : ∀ k, k ≤ s.cfg.h → (Arr.get smag k).isNonneg = true) :
    State.Running { s with smag := smag, sif := sif } where
  inv := { h.inv with
    memories := { h.inv.memories with smag := hsmag, sif := hsif }
    streaming := fun _ =>
      { h.streaming with
        smag := hsign
        envelope := fun hw => (h.streaming.envelope hw).congr rfl rfl rfl rfl } }
  warm := h.warm

theorem running_clearSynthBins {s : State} (h : s.Running) : (clearSynthBins s).Running :=
  h.synthesis (Arr.wf_fill _ h.inv.memories.smag (Nat.le_refl _)) (Arr.wf_fill _ h.inv.memories.sif (Nat.le_refl _))
    (Arr.fill_all (Q := fun v => v.isNonneg = true) fun _ _ => rfl)

/-- What depositing a bin does: drop it, or write the bin of the synthesis side it maps to (R182). -/
theorem depositBin_cases (ratio : F) (k : Nat) (s : State) : depositBin ratio k s = s
    ∨ ∃ b, b ≤ s.cfg.h ∧ depositBin ratio k s = { s with
        smag := Arr.set s.smag b (F.add (Arr.get s.smag b) (Arr.get s.curmag k))
        sif := Arr.set s.sif b (Arr.get s.curif k) } := by
  unfold depositBin
  dsimp only
  split
  · exact .inr ⟨_, by omega, rfl⟩
  · exact .inl rfl

theorem depositBin_cfg (ratio : F) (k : Nat) (s : State) : (depositBin ratio k s).cfg = s.cfg := by
  obtain ⟨_, _, h⟩ := depositBin_writes ratio k s
  rw [h]

theorem running_depositBin {s : State} {ratio : F} {k : Nat} (h : s.Running) (hk : k ≤ s.cfg.h) :
    (depositBin ratio k s).Running := by
  rcases depositBin_cases ratio k s with heq | ⟨b, hb, heq⟩
  · rwa [heq]
  · rw [heq]
    refine h.synthesis (Arr.wf_set _ h.inv.memories.smag (Nat.lt_succ_of_le hb))
      (Arr.wf_set _ h.inv.memories.sif (Nat.lt_succ_of_le hb)) ?_
    refine Arr.set_all (Q := fun v => v.isNonneg = true) h.streaming.smag ?_
    exact F.add_isNonneg (h.streaming.smag b hb) (h.streaming.curmag k hk).2

theorem running_mapBins {s : State} (h : s.Running) : (mapBins s).Running := by
  have hloop : (forRange (s.cfg.h + 1) (depositBin (pitchRatio s)) (clearSynthBins s)).Running := by
    refine (forRange_keeps (P := fun t : State => t.Running ∧ t.cfg = s.cfg) ⟨running_clearSynthBins h, rfl⟩ ?_).1
    rintro k t hk ⟨hrun, hcfg⟩
    exact ⟨running_depositBin hrun (by rw [hcfg]; omega), (depositBin_cfg _ _ _).trans hcfg⟩
  rw [mapBins]
  exact hloop.synthesis hloop.inv.memories.smag (Arr.wf_set_zero hloop.inv.memories.sif) hloop.streaming.smag

theorem running_gateBins {s : State} (h : s.Running) : (gateBins s).Running := by
  unfold gateBins
  split
  · have hgated : ∀ thr, Arr.wf (s.cfg.h + 1) (forSpan s.act.glo s.act.ghi
          (fun k a => if F.lt (Arr.get a k) thr then Arr.set a k F.zero else a) s.smag)
        ∧ ∀ b, b ≤ s.cfg.h → (Arr.get (forSpan s.act.glo s.act.ghi
          (fun k a => if F.lt (Arr.get a k) thr then Arr.set a k F.zero else a) s.smag) b).isNonneg = true := by
      intro thr
      refine forSpan_keeps (P := fun a => Arr.wf (s.cfg.h + 1) a ∧ ∀ b, b ≤ s.cfg.h → (Arr.get a b).isNonneg = true)
        ⟨h.inv.memories.smag, h.streaming.smag⟩ fun k a _ _ ha => ?_
      split
      · exact ⟨Arr.wf_set_zero ha.1, Arr.set_all (Q := fun v => v.isNonneg = true) ha.2 rfl⟩
      · exact ha
    obtain ⟨hwf, hsign⟩ := hgated (F.mul s.act.gthr (peak s.cfg.h s.smag))
    exact h.synthesis hwf h.inv.memories.sif hsign
  · exact h

/-- The synthesis hop stays within 1..HSMAX (R186). -/
theorem stretchHop_range {c : Cfg} (hc : c.IsBuild) (stretch : F) :
    1 ≤ stretchHop c stretch ∧ stretchHop c stretch ≤ c.hsMax := by
  have := hc.haLow
  have := hc.ha_le_hsMax
  rw [stretchHop]
  omega

theorem setHop_range {s : State} (hc : s.cfg.IsBuild) : 1 ≤ (setHop s).hs ∧ (setHop s).hs ≤ s.cfg.hsMax := by
  have hhop : (setHop s).hs = if s.variant = .stretch then stretchHop s.cfg s.act.stretch else s.cfg.ha := rfl
  rw [hhop]
  split
  · exact stretchHop_range hc _
  · exact ⟨hc.haLow, hc.ha_le_hsMax⟩

theorem running_setHop {s : State} (h : s.Running) : (setHop s).Running where
  inv := { h.inv with
    hsLow := (setHop_range h.build).1
    hsHigh := (setHop_range h.build).2
    memories := { h.inv.memories with }
    streaming := fun _ => h.streaming.elsewhere }
  warm := h.warm

theorem running_bodyModify {s : State} (h : s.Running) : (bodyModify s).Running :=
  running_setHop (running_gateBins (running_mapBins (running_acceptFrame h)))

end Sys2Proof.Machine
end

section
/-! SUPPORT. The invariants through the overlap-add ring (46_overlap_add.md): which cell the writer and the reader meet,
how far a cell's envelope can have grown (R219, log 19), and what `OLAW` and `POP` leave. -/

namespace Sys2Proof

/-! ### The cap on the synthesis window (log 19) -/

/-- A multiple of the cap by at most N is a datum: the cap is a power of two, and N times it is 2^127. -/
theorem Cfg.IsBuild.ofInt_cap {c : Cfg} (hc : c.IsBuild) {k : Nat} (hk : k ≤ c.n) :
    ∃ m : Mag, F.ofInt ((k * c.windowCap : Nat) : Int) = .fin false m ∧ m.units = k * c.windowCap * 2 ^ 149 := by
  have hlog : c.log2n ≤ 15 := by
    have hhigh : 2 ^ c.log2n ≤ 2 ^ 15 := hc.nPow ▸ hc.nHigh
    exact (Nat.pow_le_pow_iff_right (by decide)).1 hhigh
  have hcap : c.windowCap = 2 ^ (127 - c.log2n) := by
    rw [Cfg.windowCap, ← Nat.pow_div (by omega) (by decide), ← hc.nPow]
  have hunits : k * c.windowCap * 2 ^ 149 = k * 2 ^ (276 - c.log2n) := by
    rw [hcap, Nat.mul_assoc, ← pow_add, show 127 - c.log2n + 149 = 276 - c.log2n by omega]
  have hpow : 2 ^ c.log2n * 2 ^ (276 - c.log2n) = 2 ^ (c.log2n + (276 - c.log2n)) := (pow_add ..).symm
  have hexp : 2 ^ (c.log2n + (276 - c.log2n)) < 2 ^ 277 := pow_lt_pow_right₀ (by decide) (by omega)
  have hbound := (Nat.mul_le_mul_right (2 ^ (276 - c.log2n)) (hc.nPow ▸ hk)).trans_lt (hpow.trans_lt hexp)
  obtain ⟨m, hm⟩ := F.exists_units (by have := hc.nHigh; omega) hbound
  exact ⟨m, F.ofInt_exact (hm.trans hunits.symm), hm.trans hunits.symm⟩

namespace F

theorem le_trans {a b c : F} (hab : le a b = true) (hbc : le b c = true) : le a c = true := by
  obtain ⟨ha, -, hab⟩ := le_iff.1 hab
  obtain ⟨-, hc, hbc⟩ := le_iff.1 hbc
  exact le_iff.2 ⟨ha, hc, hab.trans hbc⟩

theorem rank_fin_false (m : Mag) : (fin false m).rank = m.units := rfl

/-- A finite datum from ±0 up to a magnitude. -/
theorem atMost_of_le {a : F} {m : Mag} (hfin : a.isFinite = true) (hlow : le .zero a = true)
    (h : le a (.fin false m) = true) : AtMost m a := by
  obtain ⟨-, -, h⟩ := le_iff.1 h
  rw [rank_fin_false] at h
  exact ⟨hfin, by rwa [abs_of_nonneg (le_zero_iff.1 hlow).2]⟩

theorem AtMost.le {a : F} {m : Mag} (h : AtMost m a) : le a (.fin false m) = true :=
  le_iff.2 ⟨ne_nan_of_isFinite h.1, by simp, (abs_le.1 h.2).2⟩

end F

/-- More entries, a larger bound. -/
theorem Cfg.IsBuild.ofInt_cap_mono {c : Cfg} (hc : c.IsBuild) {j k : Nat} (hjk : j ≤ k) (hk : k ≤ c.n) :
    F.le (F.ofInt ((j * c.windowCap : Nat) : Int)) (F.ofInt ((k * c.windowCap : Nat) : Int)) = true := by
  obtain ⟨p, hp, hpunits⟩ := hc.ofInt_cap (hjk.trans hk)
  obtain ⟨q, hq, hqunits⟩ := hc.ofInt_cap hk
  rw [hp, hq]
  refine F.AtMost.le (F.atMost_fin ?_)
  rw [hpunits, hqunits, Nat.mul_assoc, Nat.mul_assoc]
  exact Nat.mul_le_mul_right _ hjk

theorem Cfg.IsBuild.zero_le_cap {c : Cfg} (hc : c.IsBuild) {k : Nat} (hk : k ≤ c.n) :
    F.le .zero (F.ofInt ((k * c.windowCap : Nat) : Int)) = true := by
  obtain ⟨m, hm, -⟩ := hc.ofInt_cap hk
  rw [hm]
  exact F.le_zero_of_isNonneg rfl

/-- A cell that has gathered at most `k` window entries has gathered at most `k + 1` after one more. -/
theorem Cfg.IsBuild.envelope_add {c : Cfg} (hc : c.IsBuild) {a w : F} {k : Nat} (hk : k + 1 ≤ c.n)
    (hafin : a.isFinite = true) (halow : F.le .zero a = true)
    (ha : F.le a (F.ofInt ((k * c.windowCap : Nat) : Int)) = true)
    (hwfin : w.isFinite = true) (hwlow : F.le .zero w = true) (hw : F.le w (F.ofInt c.windowCap) = true) :
    (F.add a w).isFinite = true ∧ F.le (F.add a w) (F.ofInt (((k + 1) * c.windowCap : Nat) : Int)) = true := by
  obtain ⟨p, hp, hpunits⟩ := hc.ofInt_cap (Nat.le_of_succ_le hk)
  obtain ⟨q, hq, hqunits⟩ := hc.ofInt_cap (k := 1) (by have := hc.nLow; omega)
  obtain ⟨m, hm, hmunits⟩ := hc.ofInt_cap hk
  rw [Nat.one_mul] at hq hqunits
  rw [hp] at ha
  rw [hq] at hw
  rw [hm]
  have hsum : F.AtMost m (F.add a w) := by
    refine (F.atMost_of_le hafin halow ha).add (F.atMost_of_le hwfin hwlow hw) ?_
    rw [hpunits, hqunits, hmunits]
    exact Nat.le_of_eq (by ring)
  exact ⟨hsum.1, hsum.le⟩

namespace Machine

/-! ### Cells of the ring -/

/-- Cells less than a whole ring apart are different. -/
theorem cell_inj {l w i j : Nat} (hi : i < l) (hj : j < l) (h : (w + i) % l = (w + j) % l) : i = j := by
  have hmod : i ≡ j [MOD l] := Nat.ModEq.add_left_cancel' w h
  rwa [Nat.ModEq, Nat.mod_eq_of_lt hi, Nat.mod_eq_of_lt hj] at hmod

/-- A cell ahead of the writer, counted from the reader. -/
theorem State.Inv.cell_ahead {s : State} (h : s.Inv) (d : Nat) :
    (s.wpos + d) % s.cfg.l = (s.rpos + (s.avail + d)) % s.cfg.l := by
  rw [h.wpos, Nat.mod_add_mod, Nat.add_assoc]

/-- What a loop that adds to N cells leaves: the cells written, and the others as before. -/
theorem get_ringAdd {s : State} (f : Nat → F) (a : Arr) (hl : s.cfg.n ≤ s.cfg.l) :
    (∀ j, j < s.cfg.n → Arr.get (ringAdd s f a) ((s.wpos + j) % s.cfg.l)
      = F.add (Arr.get a ((s.wpos + j) % s.cfg.l)) (f j))
    ∧ ∀ c, (∀ j, j < s.cfg.n → c ≠ (s.wpos + j) % s.cfg.l) → Arr.get (ringAdd s f a) c = Arr.get a c := by
  have hloop : (∀ j, j < s.cfg.n → Arr.get (ringAdd s f a) ((s.wpos + j) % s.cfg.l)
      = if j < s.cfg.n then F.add (Arr.get a ((s.wpos + j) % s.cfg.l)) (f j) else Arr.get a ((s.wpos + j) % s.cfg.l))
      ∧ ∀ c, (∀ j, j < s.cfg.n → c ≠ (s.wpos + j) % s.cfg.l) → Arr.get (ringAdd s f a) c = Arr.get a c := by
    refine forRange_induction (P := fun k (t : Arr) =>
      (∀ j, j < s.cfg.n → Arr.get t ((s.wpos + j) % s.cfg.l) = if j < k then
        F.add (Arr.get a ((s.wpos + j) % s.cfg.l)) (f j) else Arr.get a ((s.wpos + j) % s.cfg.l))
      ∧ ∀ c, (∀ j, j < s.cfg.n → c ≠ (s.wpos + j) % s.cfg.l) → Arr.get t c = Arr.get a c)
      ⟨fun j _ => by rw [if_neg (Nat.not_lt_zero j)], fun _ _ => rfl⟩ ?_
    rintro k t hk ⟨hcells, hothers⟩
    refine ⟨fun j hj => ?_, fun c hc => ?_⟩
    · rw [Arr.get_set]
      by_cases hjk : j = k
      · subst hjk
        rw [if_pos rfl, hcells j hj, if_neg (Nat.lt_irrefl j), if_pos (Nat.lt_succ_self j)]
      · have hne : ¬ (s.wpos + j) % s.cfg.l = (s.wpos + k) % s.cfg.l := fun heq =>
          hjk (cell_inj (by omega) (by omega) heq)
        rw [if_neg hne, hcells j hj]
        exact if_congr (by omega) rfl rfl
    · rw [Arr.get_set_ne _ _ (hc k hk)]
      exact hothers c hc
  exact ⟨fun j hj => (hloop.1 j hj).trans (if_pos hj), hloop.2⟩

/-- A property of every cell that every addition keeps. -/
theorem ringAdd_all {Q : F → Prop} {s : State} {f : Nat → F} {a : Arr} (ha : ∀ c, c < s.cfg.l → Q (Arr.get a c))
    (hf : ∀ x j, j < s.cfg.n → Q x → Q (F.add x (f j))) (hl : 0 < s.cfg.l) :
    ∀ c, c < s.cfg.l → Q (Arr.get (ringAdd s f a) c) := by
  refine forRange_keeps (P := fun t : Arr => ∀ c, c < s.cfg.l → Q (Arr.get t c)) ha fun j t hj ht c hc => ?_
  rw [Arr.get_set]
  split
  · exact hf _ j hj (ht _ (Nat.mod_lt _ hl))
  · exact ht c hc

theorem wf_ringAdd {s : State} {f : Nat → F} {a : Arr} (ha : Arr.wf s.cfg.l a) (hl : 0 < s.cfg.l) :
    Arr.wf s.cfg.l (ringAdd s f a) :=
  forRange_keeps ha fun _ _ _ hw => Arr.wf_set _ hw (Nat.mod_lt _ hl)

/-! ### The writer -/

/-- What the ring's memories hold between the additions of a frame and the writer's advance: only the N cells ahead of
the writer have changed, and the one `d` places ahead has gathered at most N - d window entries. -/
structure Deposited (s : State) (ola env : Arr) : Prop where
  olaWf : Arr.wf s.cfg.l ola
  envWf : Arr.wf s.cfg.l env
  olaNotNan : ∀ c, c < s.cfg.l → Arr.get ola c ≠ .nan
  envLow : ∀ c, c < s.cfg.l → F.le .zero (Arr.get env c) = true
  others : ∀ c, (∀ j, j < s.cfg.n → c ≠ (s.wpos + j) % s.cfg.l) →
    Arr.get ola c = Arr.get s.ola c ∧ Arr.get env c = Arr.get s.env c
  finite : s.cfg.WindowBounded → ∀ c, c < s.cfg.l → (Arr.get env c).isFinite = true
  cells : s.cfg.WindowBounded → ∀ c, c < s.cfg.l →
    F.le (Arr.get env c) (F.ofInt (s.cfg.n * s.cfg.windowCap : Nat)) = true
  ahead : s.cfg.WindowBounded → ∀ d, d < s.cfg.n → s.avail + d < s.cfg.l →
    F.le (Arr.get env ((s.wpos + d) % s.cfg.l)) (F.ofInt ((s.cfg.n - d) * s.cfg.windowCap : Nat)) = true

/-- A frame that is not finite adds nothing (R212). -/
theorem deposited_nothing {s : State} (h : s.Running) : Deposited s s.ola s.env where
  olaWf := h.inv.memories.ola
  envWf := h.inv.memories.env
  olaNotNan := h.streaming.ola
  envLow := h.streaming.env
  others := fun _ _ => ⟨rfl, rfl⟩
  finite := fun hw => (h.streaming.envelope hw).finite
  cells := fun hw => (h.streaming.envelope hw).cells
  ahead := fun hw d hd hroom => F.le_trans ((h.streaming.envelope hw).ahead d hd hroom)
    (h.build.ofInt_cap_mono (by omega) (by omega))

theorem frameFinite_iff {s : State} : frameFinite s = true ↔ ∀ j, j < s.cfg.n → (windowed s j).isFinite = true := by
  simp only [frameFinite, List.all_eq_true, List.mem_range]

theorem add_ne_nan_of_isFinite {a b : F} (ha : a ≠ .nan) (hb : b.isFinite = true) : F.add a b ≠ .nan := by
  obtain ⟨t, n, rfl⟩ := F.isFinite_iff.1 hb
  rcases a with _ | s | ⟨s, m⟩
  · exact absurd rfl ha
  · simp [F.add]
  · exact F.add_ne_nan rfl rfl

/-- The cell `d` places ahead of the writer gathers its entry of the window. -/
theorem envelope_ringAdd {s : State} (h : s.Running) (hroom : s.avail + s.cfg.n ≤ s.cfg.l) (hw : s.cfg.WindowBounded)
    {d : Nat} (hd : d < s.cfg.n) :
    (Arr.get (ringAdd s s.cfg.wsAt s.env) ((s.wpos + d) % s.cfg.l)).isFinite = true
    ∧ F.le (Arr.get (ringAdd s s.cfg.wsAt s.env) ((s.wpos + d) % s.cfg.l))
      (F.ofInt ((s.cfg.n - d) * s.cfg.windowCap : Nat)) = true := by
  have hcell : (s.wpos + d) % s.cfg.l < s.cfg.l := Nat.mod_lt _ h.build.ring_pos
  obtain ⟨hwfin, hwlow⟩ := h.build.wsAt_finite d
  rw [(get_ringAdd _ _ (by omega)).1 d hd, show s.cfg.n - d = s.cfg.n - 1 - d + 1 by omega]
  exact h.build.envelope_add (by omega) ((h.streaming.envelope hw).finite _ hcell) (h.streaming.env _ hcell)
    ((h.streaming.envelope hw).ahead d hd (by omega)) hwfin hwlow (hw d hd)

/-- A finite frame adds its samples and the window to the N cells ahead of the writer (R210). -/
theorem deposited_frame {s : State} (h : s.Running) (hroom : s.avail + s.cfg.n ≤ s.cfg.l)
    (hfin : frameFinite s = true) : Deposited s (ringAdd s (windowed s) s.ola) (ringAdd s s.cfg.wsAt s.env) := by
  have hpos := h.build.ring_pos
  have hl : s.cfg.n ≤ s.cfg.l := by omega
  have hcell : ∀ c, (∃ j, j < s.cfg.n ∧ c = (s.wpos + j) % s.cfg.l)
      ∨ Arr.get (ringAdd s s.cfg.wsAt s.env) c = Arr.get s.env c := by
    intro c
    by_cases hc : ∃ j, j < s.cfg.n ∧ c = (s.wpos + j) % s.cfg.l
    · exact .inl hc
    · exact .inr ((get_ringAdd _ _ hl).2 c fun j hj heq => hc ⟨j, hj, heq⟩)
  exact {
    olaWf := wf_ringAdd h.inv.memories.ola hpos
    envWf := wf_ringAdd h.inv.memories.env hpos
    olaNotNan := ringAdd_all (Q := fun v => v ≠ .nan) h.streaming.ola
      (fun _ j hj hx => add_ne_nan_of_isFinite hx (frameFinite_iff.1 hfin j hj)) hpos
    envLow := ringAdd_all (Q := fun v => F.le .zero v = true) h.streaming.env
      (fun _ j _ hx => F.le_zero_add hx (h.build.wsAt_finite j).2) hpos
    others := fun c hc => ⟨(get_ringAdd _ _ hl).2 c hc, (get_ringAdd _ _ hl).2 c hc⟩
    finite := fun hw c hc => by
      rcases hcell c with ⟨j, hj, rfl⟩ | hsame
      · exact (envelope_ringAdd h hroom hw hj).1
      · rw [hsame]
        exact (h.streaming.envelope hw).finite c hc
    cells := fun hw c hc => by
      rcases hcell c with ⟨j, hj, rfl⟩ | hsame
      · exact F.le_trans (envelope_ringAdd h hroom hw hj).2 (h.build.ofInt_cap_mono (Nat.sub_le _ _) (Nat.le_refl _))
      · rw [hsame]
        exact (h.streaming.envelope hw).cells c hc
    ahead := fun hw d hd _ => (envelope_ringAdd h hroom hw hd).2 }

/-- Beyond the span of unread cells and N more, an addition leaves the ring cleared (R219). -/
theorem Deposited.cleared {s : State} {ola env : Arr} (hdep : Deposited s ola env) (h : s.Running)
    {j : Nat} (hj : s.avail + s.cfg.n ≤ j) (hjl : j < s.cfg.l) :
    Arr.get ola ((s.rpos + j) % s.cfg.l) = .zero ∧ Arr.get env ((s.rpos + j) % s.cfg.l) = .zero := by
  have hother : ∀ i, i < s.cfg.n → (s.rpos + j) % s.cfg.l ≠ (s.wpos + i) % s.cfg.l := by
    intro i hi heq
    rw [h.inv.cell_ahead] at heq
    have := cell_inj hjl (by omega) heq
    omega
  obtain ⟨hola, henv⟩ := hdep.others _ hother
  rw [hola, henv]
  exact h.streaming.clear j hj hjl

/-- The writer's advance by at least one cell: a cell now `d` places ahead was farther ahead before, or lay cleared
beyond the frame. -/
theorem Deposited.running_advance {s : State} {ola env : Arr} (hdep : Deposited s ola env) (h : s.Running)
    (hhop : s.avail + s.hs ≤ s.cfg.l) {diagNi : Word} :
    (advanceWriter { s with ola := ola, env := env, diagNi := diagNi }).Running := by
  have hpos := h.build.ring_pos
  have hlow := h.inv.hsLow
  have hwpos : (s.wpos + s.hs) % s.cfg.l = (s.rpos + (s.avail + s.hs)) % s.cfg.l := h.inv.cell_ahead s.hs
  have hahead : s.cfg.WindowBounded → ∀ d, d < s.cfg.n → s.avail + s.hs + d < s.cfg.l →
      F.le (Arr.get env (((s.wpos + s.hs) % s.cfg.l + d) % s.cfg.l))
        (F.ofInt ((s.cfg.n - 1 - d) * s.cfg.windowCap : Nat)) = true := by
    intro hw d hd hdl
    rw [Nat.mod_add_mod, Nat.add_assoc]
    rcases Nat.lt_or_ge (s.hs + d) s.cfg.n with hnear | hfar
    · exact F.le_trans (hdep.ahead hw (s.hs + d) hnear (by omega)) (h.build.ofInt_cap_mono (by omega) (by omega))
    · rw [h.inv.cell_ahead, (hdep.cleared h (by omega) (by omega)).2]
      exact h.build.zero_le_cap (by omega)
  exact {
    inv := { h.inv with
      wpos := hwpos
      avail := hhop
      memories := { h.inv.memories with ola := hdep.olaWf, env := hdep.envWf }
      streaming := fun _ =>
        { h.streaming with
          env := hdep.envLow
          envelope := fun hw => ⟨hdep.finite hw, hdep.cells hw, hahead hw⟩
          ola := hdep.olaNotNan
          clear := fun j hj hjl => by
            have hj' : s.avail + s.hs + s.cfg.n ≤ j := hj
            exact hdep.cleared h (by omega) hjl } }
    warm := h.warm }

theorem running_settle {s : State} (h : s.Running) : (settle s).Running := by
  unfold settle
  split
  · exact {
      inv := { h.inv with
        memories := { h.inv.memories with }
        streaming := fun _ => h.streaming.elsewhere }
      warm := fun hcold => LState.noConfusion hcold }
  · exact h

/-- A frame is written only where it and the hop both fit (R211). -/
theorem room_of_not_ringFull {s : State} (h : ¬ ringFull s = true) :
    s.avail + s.cfg.n ≤ s.cfg.l ∧ s.avail + s.hs ≤ s.cfg.l := by
  rw [ringFull, decide_eq_true_eq, Nat.not_lt] at h
  have hn : s.cfg.n ≤ Nat.max s.cfg.n s.hs := Nat.le_max_left _ _
  have hhs : s.hs ≤ Nat.max s.cfg.n s.hs := Nat.le_max_right _ _
  omega

theorem running_bodyOlaw {s : State} (h : s.Running) : (bodyOlaw s).Running := by
  unfold bodyOlaw
  split
  · exact running_raiseGuard _ h
  · next hfull =>
    obtain ⟨hroom, hhop⟩ := room_of_not_ringFull hfull
    refine running_settle ?_
    unfold accumulate
    split
    · next hfin => exact (deposited_frame h hroom hfin).running_advance h hhop
    · exact (deposited_nothing h).running_advance h hhop

/-! ### The reader -/

theorem State.Inv.setBuf {s : State} {i : Nat} (w : Word) (h : s.Inv) (hi : i < s.cfg.maxBlkHw) : (s.setBuf i w).Inv :=
  { h with
    memories := { h.memories with
      buf := Memory.wf_writeWord i w h.memories.buf
      bufWindow := fun e he => by
        rcases Memory.mem_writeWord he with ⟨hlow, hhigh⟩ | hold
        · have hcfg : (s.setBuf i w).cfg = s.cfg := rfl
          rw [hcfg]
          simp only [bufByteAddr] at hlow hhigh ⊢
          omega
        · exact h.memories.bufWindow e hold }
    streaming := fun hc => (h.streaming hc).elsewhere }

/-- Consuming a cell clears it, so that a whole ring behind the reader nothing is left (R213, R219). -/
theorem running_consumeCell {s : State} (h : s.Running) (havail : 0 < s.avail) : (consumeCell s).Running := by
  have hpos := h.build.ring_pos
  have hfull := h.inv.avail
  have hrpos := h.inv.rpos
  have hstep : ∀ j, ((s.rpos + 1) % s.cfg.l + j) % s.cfg.l = (s.rpos + (j + 1)) % s.cfg.l := fun j => by
    rw [Nat.mod_add_mod, Nat.add_assoc, Nat.add_comm 1]
  have hlast : (s.rpos + s.cfg.l) % s.cfg.l = s.rpos := by rw [Nat.add_mod_right, Nat.mod_eq_of_lt hrpos]
  exact {
    inv := { h.inv with
      rpos := Nat.mod_lt _ hpos
      wpos := by
        show s.wpos = ((s.rpos + 1) % s.cfg.l + (s.avail - 1)) % s.cfg.l
        rw [hstep, Nat.sub_add_cancel havail, h.inv.wpos]
      avail := (Nat.sub_le _ _).trans hfull
      memories := { h.inv.memories with
        ola := Arr.wf_set_zero h.inv.memories.ola
        env := Arr.wf_set_zero h.inv.memories.env }
      streaming := fun _ =>
        { h.streaming with
          env := fun c hc => by
            show F.le .zero (Arr.get (Arr.set s.env s.rpos .zero) c) = true
            rw [Arr.get_set]
            split
            · decide
            · exact h.streaming.env c hc
          envelope := fun hw => {
            finite := fun c hc => by
              show (Arr.get (Arr.set s.env s.rpos .zero) c).isFinite = true
              rw [Arr.get_set]
              split
              · rfl
              · exact (h.streaming.envelope hw).finite c hc
            cells := fun c hc => by
              show F.le (Arr.get (Arr.set s.env s.rpos .zero) c) (F.ofInt (s.cfg.n * s.cfg.windowCap : Nat)) = true
              rw [Arr.get_set]
              split
              · exact h.build.zero_le_cap (Nat.le_refl _)
              · exact (h.streaming.envelope hw).cells c hc
            ahead := fun d hd hdl => by
              have hd' : d < s.cfg.n := hd
              have hdl' : s.avail - 1 + d < s.cfg.l := hdl
              show F.le (Arr.get (Arr.set s.env s.rpos .zero) ((s.wpos + d) % s.cfg.l))
                (F.ofInt ((s.cfg.n - 1 - d) * s.cfg.windowCap : Nat)) = true
              rw [Arr.get_set]
              split
              · exact h.build.zero_le_cap (by omega)
              · next hne =>
                refine (h.streaming.envelope hw).ahead d hd' ?_
                by_contra hover
                rw [h.inv.cell_ahead, show s.avail + d = s.cfg.l by omega] at hne
                exact hne hlast }
          ola := fun c hc => by
            show Arr.get (Arr.set s.ola s.rpos .zero) c ≠ .nan
            rw [Arr.get_set]
            split
            · simp [F.zero]
            · exact h.streaming.ola c hc
          clear := fun j hj hjl => by
            have hj' : s.avail - 1 + s.cfg.n ≤ j := hj
            have hjl' : j < s.cfg.l := hjl
            show Arr.get (Arr.set s.ola s.rpos .zero) (((s.rpos + 1) % s.cfg.l + j) % s.cfg.l) = .zero
              ∧ Arr.get (Arr.set s.env s.rpos .zero) (((s.rpos + 1) % s.cfg.l + j) % s.cfg.l) = .zero
            rw [hstep, Arr.get_set, Arr.get_set]
            split
            · exact ⟨rfl, rfl⟩
            · next hne =>
              refine h.streaming.clear (j + 1) (by omega) ?_
              by_contra hover
              rw [show j + 1 = s.cfg.l by omega] at hne
              exact hne hlast } }
    warm := h.warm }

theorem running_bodyPop {s : State} {i : Nat} (h : s.Running) (hi : i < s.cfg.maxBlkHw) : (bodyPop i s).Running := by
  unfold bodyPop
  split
  · have hpreroll : State.Inv { s with preroll := s.preroll - 1, warmz := satAdd s.warmz 1 } :=
      { h.inv with
        preroll := (Nat.sub_le _ _).trans h.inv.preroll
        memories := { h.inv.memories with }
        streaming := fun _ => h.streaming.elsewhere }
    exact ⟨hpreroll.setBuf _ hi, h.warm⟩
  · split
    · exact ⟨State.Inv.setBuf _ h.inv.bookkeeping hi, h.warm⟩
    · next havail =>
      have hcell := running_consumeCell h (Nat.pos_of_ne_zero havail)
      unfold emitSample
      split
      · exact ⟨hcell.inv.setBuf _ hi, hcell.warm⟩
      · have hguard := running_raiseGuard .numericalInstability hcell
        exact ⟨hguard.inv.setBuf _ hi, hguard.warm⟩

end Machine

end Sys2Proof
end

section
/-! SUPPORT. The invariants through whole commands, host accesses and steps (47_facade.md, 20_memory.md R81). -/

namespace Sys2Proof

namespace Machine

/-! ### Clearing, preparing and hardware reset -/

theorem memoriesWf_clearWorkingState {s : State} (h : s.MemoriesWf) : (clearWorkingState s).MemoriesWf :=
  { h with
    ring := Arr.wf_nil _, frame := Arr.wf_nil _, xr := Arr.wf_nil _, xi := Arr.wf_nil _, mag := Arr.wf_nil _
    ph := Arr.wf_nil _, tif := Arr.wf_nil _, lastph := Arr.wf_nil _, synph := Arr.wf_nil _, curmag := Arr.wf_nil _
    curif := Arr.wf_nil _, smag := Arr.wf_nil _, sif := Arr.wf_nil _, phi := Arr.wf_nil _, y := Arr.wf_nil _
    ola := Arr.wf_nil _, env := Arr.wf_nil _ }

theorem inv_bodyReset {s : State} (h : s.Inv) : (bodyReset s).Inv := by
  have hc := Cfg.isBuild h.build
  have hn : 0 < s.cfg.n := by have := hc.nLow; omega
  exact { h with
    rwp := hn
    hopcnt := Nat.zero_le _
    hsLow := hc.haLow
    hsHigh := hc.ha_le_hsMax
    rpos := hc.ring_pos
    wpos := (Nat.zero_mod _).symm
    avail := Nat.zero_le _
    preroll := Nat.le_refl _
    prng := hc.seed
    memories := { memoriesWf_clearWorkingState h.memories with }
    streaming := fun hc => absurd rfl hc }

/-- A cleared memory meets every bound on what a prepared engine holds. -/
theorem running_prepared {s : State} {v m : Nat} {variant : Variant} (h : s.Inv)
    (hprep : preparable s v m = some variant) : (prepared variant m s).Running := by
  obtain ⟨-, hlow, hhigh, -⟩ := preparable_eq_some.1 hprep
  have hc := Cfg.isBuild h.build
  have hpub : s.pub.InRange s.cfg := h.pub ▸ mappedOf_inRange hc h.param
  have hblk : (BitVec.ofNat 21 m).toNat = m := by
    have := hc.bufHigh
    rw [BitVec.toNat_ofNat]
    omega
  exact {
    inv := { inv_bodyReset h with
      maxblk := hblk.trans_le hhigh
      act := hpub
      memories := { memoriesWf_clearWorkingState h.memories with }
      streaming := fun _ => {
        maxblk := hlow.trans_eq hblk.symm
        mag := fun _ _ => .inr rfl
        curmag := fun _ _ => ⟨rfl, rfl⟩
        curif := fun _ _ => rfl
        smag := fun _ _ => rfl
        env := fun _ _ => F.le_zero_of_isNonneg rfl
        envelope := fun _ => {
          finite := fun _ _ => rfl
          cells := fun _ _ => hc.zero_le_cap (Nat.le_refl _)
          ahead := fun d _ _ => hc.zero_le_cap ((Nat.sub_le _ _).trans (Nat.sub_le _ _)) }
        ola := fun _ _ => by rw [show Arr.get (prepared variant m s).ola _ = F.zero from rfl]; simp [F.zero]
        clear := fun _ _ _ => ⟨rfl, rfl⟩ } }
    warm := fun hcold => LState.noConfusion hcold }

theorem inv_powerUp {c : Cfg} (hwf : c.wf = true) : (State.hardwareReset c).Inv := by
  have hc := Cfg.isBuild hwf
  have hpub := reset_mappedOf hc
  have hact : (Mapped.reset c.n).InRange c := hpub ▸ mappedOf_inRange hc reset_isUnit
  exact {
    build := hwf
    rwp := by have := hc.nLow; show 0 < c.n; omega
    hopcnt := Nat.zero_le _
    hsLow := hc.haLow
    hsHigh := hc.ha_le_hsMax
    rpos := hc.ring_pos
    wpos := (Nat.zero_mod _).symm
    avail := Nat.zero_le _
    preroll := Nat.le_refl _
    prng := hc.seed
    maxblk := Nat.zero_le _
    param := reset_isUnit
    pub := hpub
    act := hact
    memories := {
      ring := Arr.wf_nil _, frame := Arr.wf_nil _, xr := Arr.wf_nil _, xi := Arr.wf_nil _, mag := Arr.wf_nil _
      ph := Arr.wf_nil _, tif := Arr.wf_nil _, lastph := Arr.wf_nil _, synph := Arr.wf_nil _
      curmag := Arr.wf_nil _, curif := Arr.wf_nil _, smag := Arr.wf_nil _, sif := Arr.wf_nil _
      phi := Arr.wf_nil _, y := Arr.wf_nil _, ola := Arr.wf_nil _, env := Arr.wf_nil _
      buf := Memory.wf_nil, bufWindow := fun _ he => absurd he List.not_mem_nil }
    streaming := fun hwarm => absurd rfl hwarm }

theorem inv_hardwareReset {s : State} (h : s.Inv) : (hardwareReset s).Inv := (inv_powerUp h.build).bookkeeping

/-! ### The block loop -/

/-- The nine parts of `FRAME`, without its count (47_facade.md R226). -/
def frameParts (s : State) : State :=
  bodyOlaw (bodyFfti (bodyHerm (bodyAccum (bodyModify (bodyTrack (bodyPolar (bodyFftf (bodyExtract s))))))))

theorem bodyFrame_eq (s : State) :
    bodyFrame s = { frameParts s with framecnt := (frameParts s).framecnt + 1 } := rfl

theorem running_frameParts {s : State} (h : s.Running) : (frameParts s).Running :=
  running_bodyOlaw (running_bodyFfti (running_bodyHerm (running_bodyAccum (running_bodyModify
    (running_bodyTrack (running_bodyPolar (running_bodyFftf (running_bodyExtract h))))))))

theorem State.Running.countFrame {s : State} (h : s.Running) (n : Word) : State.Running { s with framecnt := n } :=
  ⟨h.inv.bookkeeping, h.warm⟩

theorem running_bodyFrame {s : State} (h : s.Running) : (bodyFrame s).Running := by
  rw [bodyFrame_eq]
  exact (running_frameParts h).countFrame _

/-- The latch takes a published set, which is in range (47_facade.md R222, R238). -/
theorem running_latch {s : State} (h : s.Running) : (latch s).Running where
  inv := { h.inv with
    act := by
      show s.pub.InRange s.cfg
      exact h.inv.pub ▸ mappedOf_inRange h.build h.inv.param
    memories := { h.inv.memories with }
    streaming := fun _ => h.streaming.elsewhere }
  warm := h.warm

/-- One sample of the block loop leaves the configuration and `MAXBLK`. -/
theorem processSample_fixed (i : Nat) (s : State) :
    (processSample i s).cfg = s.cfg ∧ (processSample i s).maxblk = s.maxblk := by
  obtain ⟨_, _, _, _, _, _, _, _, hpop⟩ := bodyPop_writes i (frameIfDue (bodyPush i s))
  rw [processSample, hpop]
  unfold frameIfDue
  split
  · obtain ⟨_, ⟨_, _, _, _, _, _, _, _, _, _, _, _, _, _, _, _, _, _, _, _, _, _, _, _, rfl⟩, hframe⟩ :=
      bodyFrame_writes (bodyPush i s)
    rw [hframe]
    exact ⟨rfl, rfl⟩
  · exact ⟨rfl, rfl⟩

theorem frameIfDue_cfg (s : State) : (frameIfDue s).cfg = s.cfg := by
  unfold frameIfDue
  split
  · obtain ⟨_, ⟨_, _, _, _, _, _, _, _, _, _, _, _, _, _, _, _, _, _, _, _, _, _, _, _, rfl⟩, hframe⟩ :=
      bodyFrame_writes s
    rw [hframe]
  · rfl

theorem running_frameIfDue {s : State} (h : s.Running) : (frameIfDue s).Running := by
  unfold frameIfDue
  split
  · exact running_bodyFrame h
  · exact h

theorem running_processSample {s : State} {i : Nat} (h : s.Running) (hi : i < s.cfg.maxBlkHw) :
    (processSample i s).Running :=
  running_bodyPop (running_frameIfDue (running_bodyPush i h)) (by rw [frameIfDue_cfg]; exact hi)

theorem running_bodyProcess {s : State} {n : Nat} (h : s.Running) (hn : n ≤ s.cfg.maxBlkHw) :
    (bodyProcess n s).Running := by
  refine (forRange_keeps (P := fun t : State => t.Running ∧ t.cfg = s.cfg) ⟨running_latch h, rfl⟩ ?_).1
  rintro i t hi ⟨hrun, hcfg⟩
  exact ⟨running_processSample hrun (by rw [hcfg]; omega), (processSample_fixed i t).1.trans hcfg⟩

/-! ### Commands -/

/-- A block index or length that passes its check lies within the sample buffer. -/
theorem State.Running.index_lt {s : State} (h : s.Running) {i : Nat} (hok : blockIndexOk s i = true) :
    i < s.cfg.maxBlkHw := (of_decide_eq_true hok).trans_le h.inv.maxblk

theorem running_pipelineBody {s : State} (i : Instr) (h : s.Running) (hok : operandsOk s i = true) :
    (pipelineBody i s).Running := by
  cases i with
  | nop | prepare | reset => exact h
  | process n => exact running_bodyProcess h ((of_decide_eq_true hok).trans h.inv.maxblk)
  | frame => exact running_bodyFrame h
  | push k => exact running_bodyPush k h
  | extract => exact running_bodyExtract h
  | loadx => exact running_bodyLoadx h
  | bitrev => exact running_bodyBitrev h
  | bfly inv stage q =>
    have hchecks : butterflyOk s stage q = true := hok
    simp only [butterflyOk, Bool.and_eq_true, decide_eq_true_eq] at hchecks
    obtain ⟨⟨hlow, hhigh⟩, hq⟩ := hchecks
    exact running_bodyBfly inv h hlow hhigh hq
  | zim => exact running_bodyZim h
  | scaley => exact running_bodyScaley h
  | fftf => exact running_bodyFftf h
  | ffti => exact running_bodyFfti h
  | polar => exact running_bodyPolar h
  | track => exact running_bodyTrack h
  | modify => exact running_bodyModify h
  | accum => exact running_bodyAccum h
  | herm => exact running_bodyHerm h
  | olaw => exact running_bodyOlaw h
  | pop k => exact running_bodyPop h (h.index_lt hok)

theorem inv_exec {i : Instr} {s t : State} (h : s.Inv) (hexec : exec i s = .next t) : t.Inv := by
  rcases exec_cases hexec with ⟨r, -, rfl⟩ | ⟨-, rfl⟩ | ⟨-, rfl⟩ | ⟨v, m, variant, -, hprep, rfl⟩ | ⟨-, rfl⟩
    | ⟨hwarm, hok, rfl⟩
  · exact h.refusedWith r
  · exact { h.refusedWith .prepFail with
      memories := { h.memories with }
      streaming := fun hwarm => absurd rfl hwarm }
  · exact h.finish .ok
  · exact (running_prepared h hprep).inv.finish .ok
  · exact (inv_bodyReset h).finish .ok
  · exact (running_pipelineBody i ⟨h, hwarm⟩ hok).inv.finish .ok

/-! ### Host writes -/

theorem State.Inv.storeParam {s : State} (h : s.Inv) (i : ParamIndex) {v : F} (hv : v.isUnit = true) :
    (storeParam i v s).Inv :=
  { h with
    param := set_isUnit i h.param hv
    pub := by
      show publish s.cfg v s.pub i = mappedOf s.cfg (s.param.set v i)
      rw [h.pub, publish_mappedOf]
    memories := { h.memories with }
    streaming := fun hc => (h.streaming hc).elsewhere }

theorem inv_paramWrite {s : State} (i : ParamIndex) (u : Word) (h : s.Inv) : (paramWrite i u s).Inv := by
  rcases paramWrite_cases i u s with ⟨-, heq⟩ | ⟨hfin, -, heq⟩ | ⟨hfin, -, heq⟩
  · exact heq ▸ h.raiseGuard _
  · exact heq ▸ (h.raiseGuard _).storeParam i (clampUnit_isUnit hfin)
  · exact heq ▸ h.storeParam i (clampUnit_isUnit hfin)

theorem inv_plainWrite {s : State} (addr : BitVec 22) (v : Word) (h : s.Inv) : (plainWrite addr v s).Inv := by
  rcases plainWrite_cases addr v s with ⟨-, heq⟩ | ⟨i, -, heq⟩ | ⟨i, -, hi, heq⟩ | heq
  · rw [heq]
    exact h.bookkeeping
  · rw [heq]
    exact inv_paramWrite i v h
  · rw [heq]
    exact h.setBuf v hi
  · rwa [heq]

end Machine

open Machine

/-- Settles O8: each body keeps the invariants of a prepared engine, and every other operation leaves what they speak of
or starts it anew. -/
theorem stepKeepsInvariant : Obligations.StepKeepsInvariant := by
  intro s t hinv hstep
  exact step_keeps (fun _ _ h => h.bookkeeping) (fun _ _ h => h.bookkeeping) (fun _ addr v h => inv_plainWrite addr v h)
    (fun _ h => h.refusedWith .illegal) (fun _ _ _ h => inv_exec h) (fun _ h => inv_hardwareReset h) hinv hstep

/-- Settles O7. -/
theorem resetMeetsInvariants : Obligations.ResetMeetsInvariants :=
  ⟨inv_powerUp (by decide), fun hwarm => absurd rfl hwarm⟩

end Sys2Proof
end

section
/-! SUPPORT. Phases and frequencies (10_state.md R54, 45_rotator.md R201): what `wrap` is given stays far below 2^22, so
that it lands in (-PI, PI], and a tracked frequency stays at most TWO_PI. -/

namespace Sys2Proof

namespace F

/-! ### Phases and frequencies as bounds -/

theorem pi_eq : pi = .fin false NumRef.piMag := by decide +kernel

theorem twoPi_eq : twoPi = .fin false NumRef.twoPiMag := by decide +kernel

/-- `PI` in counts of 2^-149. -/
theorem piMag_units : NumRef.piMag.units = 13176795 * 2 ^ 127 := by
  exact_mod_cast units_piMag

theorem twoPiMag_units : NumRef.twoPiMag.units = 13176795 * 2 ^ 128 := by
  rw [units_twoPiMag, piMag_units, Nat.mul_left_comm, ← pow_succ']

theorem isTrackedFreq_iff {a : F} : a.isTrackedFreq = true ↔ AtMost NumRef.twoPiMag a := by
  rw [isTrackedFreq, Bool.and_eq_true, AtMost]
  refine and_congr_right fun hfin => ?_
  rw [le_iff_rank (by rwa [isFinite_abs]) rfl, rank_abs hfin, twoPi_eq, rank_fin_false]

theorem atMost_pi_of_within {a : F} (h : within (neg pi) pi a = true) : AtMost NumRef.piMag a := by
  rcases a with _ | ⟨_ | _⟩ | ⟨s, m⟩
  · cases h
  · exact absurd h (by decide +kernel)
  · exact absurd h (by decide +kernel)
  · rw [pi_eq] at h
    exact atMost_fin (NumRef.within_fin_iff.1 h)

theorem atMost_pi_of_isWrapped {a : F} (h : a.isWrapped = true) : AtMost NumRef.piMag a := by
  rw [isWrapped, Bool.and_eq_true, Bool.and_eq_true] at h
  obtain ⟨⟨-, hlow⟩, hhigh⟩ := h
  exact atMost_pi_of_within (within_iff.2 ⟨le_of_lt hlow, hhigh⟩)

/-- What is at most 2^22 in magnitude is wrapped into the interval (00_scope.md R20). -/
theorem wrap_isWrapped {x : F} {m : Mag} (h : AtMost m x) (hm : m.units ≤ 2 ^ 171) : (wrap x).isWrapped = true := by
  have hcap : (ofInt (2 ^ 22)).rank = 2 ^ 171 := by decide +kernel
  refine (wrapLandsInInterval x).1 h.1 ?_
  rw [le_iff_rank (by rw [isFinite_abs, h.1]) rfl, rank_abs h.1, hcap]
  exact h.2.trans (by exact_mod_cast hm)

end F

namespace Machine

/-! ### The tracked frequency -/

/-- The difference of two phases, NaN where one of them is. -/
theorem sub_phase {a b : F} (ha : a = .nan ∨ F.within (F.neg .pi) .pi a = true)
    (hb : b = .nan ∨ F.within (F.neg .pi) .pi b = true) : F.sub a b = .nan ∨ F.AtMost NumRef.twoPiMag (F.sub a b) := by
  rcases ha with rfl | ha
  · exact .inl (F.sub_nan_left _)
  · rcases hb with rfl | hb
    · exact .inl (F.sub_nan_right _)
    · exact .inr ((F.atMost_pi_of_within ha).sub (F.atMost_pi_of_within hb) (by rw [units_twoPiMag]; omega))

/-- `TRACK`'s estimate before its clamp (43_phase_tracker.md R171): at most PI from the bin's centre, which is at most
PI. -/
theorem estimate_atMost {c : Cfg} (hc : c.IsBuild) {k : Nat} (hk : k ≤ c.h) {d : F} (hd : F.AtMost NumRef.twoPiMag d) :
    F.AtMost NumRef.twoPiMag (F.add (c.omega k) (F.div (F.wrap (F.sub d (c.expAdv k))) (F.ofInt c.ha))) := by
  obtain ⟨m, -, hm⟩ := F.ofInt_small (v := 2 ^ 22) (by decide)
  obtain ⟨n, hn, hnunits⟩ := F.ofInt_small (v := c.ha) (by have := hc.haHigh; have := hc.nHigh; omega)
  have hdiff : F.AtMost m (F.sub d (c.expAdv k)) :=
    hd.sub (hc.expAdv_atMost k) (by rw [F.twoPiMag_units, hm]; omega)
  have hrest := F.atMost_pi_of_isWrapped (F.wrap_isWrapped hdiff (by omega))
  rw [hn]
  refine (hc.omega_atMost hk).add (hrest.div ?_) (by rw [units_twoPiMag]; omega)
  have := hc.haLow
  omega

theorem limit_atMost {c : Cfg} (hc : c.IsBuild) {k : Nat} (hk : k ≤ c.h) :
    F.AtMost NumRef.twoPiMag (F.mul .two (c.omega k)) := by
  obtain ⟨m, hm, hmunits⟩ := F.ofInt_small (v := 2) (by decide)
  have htwo : F.two = F.ofInt ((2 : Nat) : Int) := by decide +kernel
  rw [htwo, hm]
  refine (F.atMost_fin (Nat.le_refl _)).mul (hc.omega_atMost hk) ?_
  rw [hmunits, F.twoPiMag_units, F.piMag_units]
  omega

/-- A tracked frequency is NaN or at most TWO_PI in magnitude (43_phase_tracker.md R171, 45_rotator.md R201). -/
theorem instFreq_tracked {c : Cfg} (hc : c.IsBuild) {k : Nat} (hk : k ≤ c.h) {ph lastph : F}
    (hph : ph = .nan ∨ F.within (F.neg .pi) .pi ph = true)
    (hlast : lastph = .nan ∨ F.within (F.neg .pi) .pi lastph = true) :
    instFreq c k ph lastph = .nan ∨ (instFreq c k ph lastph).isTrackedFreq = true := by
  unfold instFreq
  split
  · exact .inr (F.isTrackedFreq_iff.2 (F.atMost_zero _))
  · dsimp only
    rcases sub_phase hph hlast with hd | hd
    · rw [hd, F.sub_nan_left, F.wrap_nonfinite rfl, F.div_nan_left, F.add_nan_right, F.lt_nan_right]
      exact .inl rfl
    · right
      split
      · exact F.isTrackedFreq_iff.2 (limit_atMost hc hk)
      · exact F.isTrackedFreq_iff.2 (estimate_atMost hc hk hd)

/-! ### The phase advance -/

theorem pitchRatio_atMost {s : State} (hact : s.act.InRange s.cfg) {m : Mag} (hm : m.units = 2 * 2 ^ 149) :
    F.AtMost m (pitchRatio s) := by
  have htwo : F.two = .fin false m := by
    have h2 : F.two = F.ofInt ((2 : Nat) : Int) := by decide +kernel
    rw [h2, F.ofInt_exact hm]
  have hpitch : F.within .half .two (pitchRatio s) = true := by
    unfold pitchRatio
    split
    · exact hact.pitch
    · exact one_within_pitch
  obtain ⟨hlow, hhigh⟩ := F.within_iff.1 hpitch
  have hzero : F.le .zero (pitchRatio s) = true := F.le_trans (by decide +kernel) hlow
  rw [htwo] at hhigh
  have hfin : (pitchRatio s).isFinite = true := by
    rcases hr : pitchRatio s with _ | ⟨_ | _⟩ | ⟨t, k⟩
    · rw [hr] at hlow
      cases hlow
    · rw [hr, ← htwo] at hhigh
      exact absurd hhigh (by decide +kernel)
    · rw [hr] at hzero
      exact absurd hzero (by decide +kernel)
    · rfl
  exact F.atMost_of_le hfin hzero hhigh

/-- The advance of a bin is below 2^21 in magnitude: a frequency of at most 8, a hop of at most 2^17, a ratio of at
most 2 (45_rotator.md R201). -/
theorem advance_atMost {s : State} (h : s.Running) {k : Nat} (hsif : (Arr.get s.sif k).isTrackedFreq = true) {m : Mag}
    (hm : m.units = 2 ^ 21 * 2 ^ 149) : F.AtMost m (advance s k) := by
  have hhop : s.hs ≤ 2 ^ 17 := h.inv.hsHigh.trans h.build.hsMaxHigh
  obtain ⟨hop, heq, hunits⟩ := F.ofInt_small (v := s.hs) (by omega)
  obtain ⟨two, -, htwo⟩ := F.ofInt_small (v := 2) (by decide)
  obtain ⟨p, -, hp⟩ := F.ofInt_small (v := 2 ^ 20) (by decide)
  have hfreq : F.AtMost p (F.mul (Arr.get s.sif k) (F.ofInt s.hs)) := by
    rw [heq]
    refine (F.isTrackedFreq_iff.1 hsif).mul (F.atMost_fin (Nat.le_refl _)) ?_
    rw [F.twoPiMag_units, hunits, hp]
    omega
  rw [advance]
  refine hfreq.mul (pitchRatio_atMost h.inv.act htwo) ?_
  rw [hp, htwo, hm]
  omega

/-- A wrapped phase advanced is wrapped again (45_rotator.md R201). -/
theorem advanced_isWrapped {s : State} (h : s.Running) {k : Nat} (hsif : (Arr.get s.sif k).isTrackedFreq = true) {a : F}
    (ha : a.isWrapped = true) : (F.wrap (F.add a (advance s k))).isWrapped = true := by
  obtain ⟨m, -, hm⟩ := F.ofInt_small (v := 2 ^ 21) (by decide)
  obtain ⟨p, -, hp⟩ := F.ofInt_small (v := 2 ^ 22) (by decide)
  refine F.wrap_isWrapped (m := p)
    ((F.atMost_pi_of_isWrapped ha).add (advance_atMost h hsif (m := m) (by rw [hm])) ?_) (by omega)
  rw [F.piMag_units, hm, hp]
  omega

/-! ### Commands that keep phases -/

/-- A prepared engine that meets the invariants, phases included. -/
structure State.Tracking (s : State) : Prop where
  running : s.Running
  phases : s.PhasesWrapped

theorem phases_bodyExtract {s : State} (h : s.PhasesWrapped) : (bodyExtract s).PhasesWrapped := { h with }

theorem phases_bodyPush {s : State} (i : Nat) (h : s.PhasesWrapped) : (bodyPush i s).PhasesWrapped := { h with }

theorem phases_bodyLoadx {s : State} (h : s.PhasesWrapped) : (bodyLoadx s).PhasesWrapped := { h with }

theorem phases_bodyBitrev {s : State} (h : s.PhasesWrapped) : (bodyBitrev s).PhasesWrapped := { h with }

theorem phases_bodyBfly {s : State} (inv : Bool) (stage q : Nat) (h : s.PhasesWrapped) :
    (bodyBfly inv stage q s).PhasesWrapped := { h with }

theorem phases_bodyZim {s : State} (h : s.PhasesWrapped) : (bodyZim s).PhasesWrapped := { h with }

theorem phases_bodyScaley {s : State} (h : s.PhasesWrapped) : (bodyScaley s).PhasesWrapped := { h with }

theorem phases_bodyFftf {s : State} (h : s.PhasesWrapped) : (bodyFftf s).PhasesWrapped := by
  obtain ⟨_, _, heq⟩ := bodyFftf_writes s
  rw [heq]
  exact { h with }

theorem phases_bodyFfti {s : State} (h : s.PhasesWrapped) : (bodyFfti s).PhasesWrapped := by
  obtain ⟨_, _, _, heq⟩ := bodyFfti_writes s
  rw [heq]
  exact { h with }

theorem phases_bodyHerm {s : State} (h : s.PhasesWrapped) : (bodyHerm s).PhasesWrapped := by
  obtain ⟨_, _, _, _, heq⟩ := bodyHerm_writes s
  rw [heq]
  exact { h with }

theorem phases_bodyOlaw {s : State} (h : s.PhasesWrapped) : (bodyOlaw s).PhasesWrapped := by
  obtain ⟨_, _, _, _, _, _, _, _, heq⟩ := bodyOlaw_writes s
  rw [heq]
  exact { h with }

theorem phases_bodyPop {s : State} (i : Nat) (h : s.PhasesWrapped) : (bodyPop i s).PhasesWrapped := by
  obtain ⟨_, _, _, _, _, _, _, _, heq⟩ := bodyPop_writes i s
  rw [heq]
  exact { h with }

theorem phases_raiseGuard {s : State} (g : Guard) (h : s.PhasesWrapped) : (raiseGuard g s).PhasesWrapped := by
  cases g <;> exact { h with }

/-! ### Commands that write phases or frequencies -/

/-- The phase of a rectangular pair is NaN or within [-PI, PI] in every numeric record (00_scope.md R15). -/
theorem fatan2_phase (num : NumChoice) (y x : F) :
    num.fns.fatan2 y x = .nan ∨ F.within (F.neg .pi) .pi (num.fns.fatan2 y x) = true := by
  obtain ⟨-, hnan, -, -, -, -, hrange, -⟩ := numericRecordsMeetRanges num
  by_cases hy : y = .nan
  · rw [hy]
    exact .inl (hnan x).1
  · by_cases hx : x = .nan
    · rw [hx]
      exact .inl (hnan y).2
    · exact .inr (hrange y x hy hx).2

theorem phases_bodyPolar {s : State} (h : s.PhasesWrapped) : (bodyPolar s).PhasesWrapped :=
  { h with
    ph := Arr.fill_all (Q := fun v => v = .nan ∨ F.within (F.neg .pi) .pi v = true) fun _ _ => fatan2_phase _ _ _ }

theorem phases_bodyTrack {s : State} (hc : s.cfg.IsBuild) (h : s.PhasesWrapped) : (bodyTrack s).PhasesWrapped :=
  { h with
    tif := Arr.fill_all (Q := fun v => v = .nan ∨ v.isTrackedFreq = true) fun k hk =>
      instFreq_tracked hc hk (h.ph k hk) (h.lastph k hk)
    lastph := Arr.fill_all (Q := fun v => v = .nan ∨ F.within (F.neg .pi) .pi v = true) h.ph }

theorem phases_acceptFrame {s : State} (h : s.PhasesWrapped) : (acceptFrame s).PhasesWrapped := by
  rcases acceptFrame_cases s with heq | heq | ⟨hvalid, heq⟩
  · rwa [heq]
  · rw [heq]
    exact phases_raiseGuard _ h
  · rw [heq]
    obtain ⟨hph, hfin⟩ := frameValid_iff.1 hvalid
    have hphase := (h.ph 0 (Nat.zero_le _)).resolve_left (F.ne_nan_of_isFinite hph)
    exact { h with
      synph := Arr.set_all (Q := fun v => v.isWrapped = true) h.synph
        (F.wrap_isWrapped (F.atMost_pi_of_within hphase) (by rw [F.piMag_units]; omega))
      curif := Arr.fill_all (Q := fun v => v.isTrackedFreq = true) fun k hk =>
        (h.tif k hk).resolve_left (F.ne_nan_of_isFinite (hfin k hk).2) }

theorem zero_isTrackedFreq : F.isTrackedFreq .zero = true := F.isTrackedFreq_iff.2 (F.atMost_zero _)

theorem phases_depositBin {s : State} {ratio : F} {k : Nat} (h : s.PhasesWrapped) (hk : k ≤ s.cfg.h) :
    (depositBin ratio k s).PhasesWrapped := by
  rcases depositBin_cases ratio k s with heq | ⟨b, -, heq⟩
  · rwa [heq]
  · rw [heq]
    exact { h with sif := Arr.set_all (Q := fun v => v.isTrackedFreq = true) h.sif (h.curif k hk) }

theorem phases_clearSynthBins {s : State} (h : s.PhasesWrapped) : (clearSynthBins s).PhasesWrapped :=
  { h with sif := Arr.fill_all (Q := fun v => v.isTrackedFreq = true) fun _ _ => zero_isTrackedFreq }

theorem phases_clearSynthDc {s : State} (h : s.PhasesWrapped) : (clearSynthDc s).PhasesWrapped :=
  { h with sif := Arr.set_all (Q := fun v => v.isTrackedFreq = true) h.sif zero_isTrackedFreq }

theorem phases_mapBins {s : State} (h : s.PhasesWrapped) : (mapBins s).PhasesWrapped := by
  refine phases_clearSynthDc ?_
  refine (forRange_keeps (P := fun t : State => t.PhasesWrapped ∧ t.cfg = s.cfg) ⟨phases_clearSynthBins h, rfl⟩ ?_).1
  rintro k t hk ⟨ht, hcfg⟩
  exact ⟨phases_depositBin ht (by rw [hcfg]; omega), (depositBin_cfg _ _ _).trans hcfg⟩

theorem phases_gateBins {s : State} (h : s.PhasesWrapped) : (gateBins s).PhasesWrapped := by
  obtain ⟨_, heq⟩ := gateBins_writes s
  rw [heq]
  exact { h with }

theorem phases_setHop {s : State} (h : s.PhasesWrapped) : (setHop s).PhasesWrapped := { h with }

theorem phases_bodyModify {s : State} (h : s.PhasesWrapped) : (bodyModify s).PhasesWrapped :=
  phases_setHop (phases_gateBins (phases_mapBins (phases_acceptFrame h)))

theorem phases_bodyAccum {s : State} (h : s.Tracking) : (bodyAccum s).PhasesWrapped := by
  have hsynph : ∀ b, b ≤ s.cfg.h → (Arr.get (forSpan 1 s.cfg.h
      (fun k a => Arr.set a k (F.wrap (F.add (Arr.get a k) (advance s k)))) s.synph) b).isWrapped = true := by
    refine forSpan_keeps (P := fun a => ∀ b, b ≤ s.cfg.h → (Arr.get a b).isWrapped = true) h.phases.synph
      fun k a _ hk ha => ?_
    exact Arr.set_all (Q := fun v => v.isWrapped = true) ha (advanced_isWrapped h.running (h.phases.sif k hk) (ha k hk))
  exact { h.phases with synph := hsynph }

/-! ### Whole commands -/

theorem tracking_frameParts {s : State} (h : s.Tracking) : (frameParts s).Tracking := by
  refine ⟨running_frameParts h.running, ?_⟩
  have hpolar := running_bodyPolar (running_bodyFftf (running_bodyExtract h.running))
  have hmodify := running_bodyModify (running_bodyTrack hpolar)
  have htrack := phases_bodyTrack hpolar.build (phases_bodyPolar (phases_bodyFftf (phases_bodyExtract h.phases)))
  exact phases_bodyOlaw (phases_bodyFfti (phases_bodyHerm (phases_bodyAccum ⟨hmodify, phases_bodyModify htrack⟩)))

theorem State.PhasesWrapped.countFrame {s : State} (h : s.PhasesWrapped) (n : Word) :
    State.PhasesWrapped { s with framecnt := n } := { h with }

theorem phases_bodyFrame {s : State} (h : s.Tracking) : (bodyFrame s).PhasesWrapped := by
  rw [bodyFrame_eq]
  exact (tracking_frameParts h).phases.countFrame _

theorem phases_processSample {s : State} (i : Nat) (h : s.Tracking) : (processSample i s).PhasesWrapped := by
  refine phases_bodyPop i ?_
  unfold frameIfDue
  split
  · exact phases_bodyFrame ⟨running_bodyPush i h.running, phases_bodyPush i h.phases⟩
  · exact phases_bodyPush i h.phases

theorem phases_bodyProcess {s : State} {n : Nat} (h : s.Tracking) (hn : n ≤ s.cfg.maxBlkHw) :
    (bodyProcess n s).PhasesWrapped := by
  have hlatch : (latch s).Tracking := ⟨running_latch h.running, { h.phases with }⟩
  refine State.Tracking.phases (And.left (b := (bodyProcess n s).cfg = s.cfg) ?_)
  refine forRange_keeps (P := fun t : State => t.Tracking ∧ t.cfg = s.cfg) ⟨hlatch, rfl⟩ ?_
  rintro i t hi ⟨ht, hcfg⟩
  exact ⟨⟨running_processSample ht.running (by rw [hcfg]; omega), phases_processSample i ht⟩,
    (processSample_fixed i t).1.trans hcfg⟩

theorem phases_pipelineBody {s : State} (i : Instr) (h : s.Tracking) (hok : operandsOk s i = true) :
    (pipelineBody i s).PhasesWrapped := by
  cases i with
  | nop | prepare | reset => exact h.phases
  | process n => exact phases_bodyProcess h ((of_decide_eq_true hok).trans h.running.inv.maxblk)
  | frame => exact phases_bodyFrame h
  | push k => exact phases_bodyPush k h.phases
  | extract => exact phases_bodyExtract h.phases
  | loadx => exact phases_bodyLoadx h.phases
  | bitrev => exact phases_bodyBitrev h.phases
  | bfly inv stage q => exact phases_bodyBfly inv stage q h.phases
  | zim => exact phases_bodyZim h.phases
  | scaley => exact phases_bodyScaley h.phases
  | fftf => exact phases_bodyFftf h.phases
  | ffti => exact phases_bodyFfti h.phases
  | polar => exact phases_bodyPolar h.phases
  | track => exact phases_bodyTrack h.running.build h.phases
  | modify => exact phases_bodyModify h.phases
  | accum => exact phases_bodyAccum h
  | herm => exact phases_bodyHerm h.phases
  | olaw => exact phases_bodyOlaw h.phases
  | pop k => exact phases_bodyPop k h.phases

theorem zero_isWrapped : F.isWrapped .zero = true := by decide +kernel

theorem zero_isPhase : F.within (F.neg .pi) .pi .zero = true := by decide +kernel

/-- Cleared memories hold phases and frequencies of 0. -/
theorem phases_prepared (variant : Variant) (m : Nat) (s : State) : (prepared variant m s).PhasesWrapped where
  synph := fun _ _ => zero_isWrapped
  ph := fun _ _ => .inr zero_isPhase
  lastph := fun _ _ => .inr zero_isPhase
  tif := fun _ _ => .inr zero_isTrackedFreq
  curif := fun _ _ => zero_isTrackedFreq
  sif := fun _ _ => zero_isTrackedFreq

/-- What no invariant speaks of has no bearing on the phases either. -/
theorem State.PhaseInv.bookkeeping {s : State} (h : s.PhaseInv) {arg0 : Word} {result : ResultCode} {cmderr : Bool}
    {cseq diagNi diagBbv diagPor : Word} {param : ParamRegs} {pub : Mapped} {buf : Memory}
    {pending : List HostAccess} {rdata : Word} :
    State.PhaseInv { s with
      arg0 := arg0, result := result, cmderr := cmderr, cseq := cseq, diagNi := diagNi, diagBbv := diagBbv
      diagPor := diagPor, param := param, pub := pub, buf := buf, pending := pending, rdata := rdata } :=
  fun hwarm => { h hwarm with }

theorem phaseInv_exec {i : Instr} {s t : State} (h : s.Inv) (hphase : s.PhaseInv) (hexec : exec i s = .next t) :
    t.PhaseInv := by
  rcases exec_cases hexec with ⟨r, -, rfl⟩ | ⟨-, rfl⟩ | ⟨-, rfl⟩ | ⟨v, m, variant, -, -, rfl⟩ | ⟨-, rfl⟩
    | ⟨hwarm, hok, rfl⟩
  · exact hphase.bookkeeping
  · exact fun hwarm => absurd rfl hwarm
  · exact hphase.bookkeeping
  · exact State.PhaseInv.bookkeeping fun _ => phases_prepared variant m s
  · exact fun hwarm => absurd rfl hwarm
  · have hbody := phases_pipelineBody i ⟨⟨h, hwarm⟩, hphase hwarm⟩ hok
    exact State.PhaseInv.bookkeeping fun _ => hbody

theorem phaseInv_plainWrite {s : State} (addr : BitVec 22) (v : Word) (h : s.PhaseInv) :
    (plainWrite addr v s).PhaseInv := by
  rcases plainWrite_cases addr v s with ⟨-, heq⟩ | ⟨i, -, heq⟩ | ⟨i, -, -, heq⟩ | heq
  · rw [heq]
    exact h.bookkeeping
  · rw [heq]
    rcases paramWrite_cases i v s with ⟨-, heq'⟩ | ⟨-, -, heq'⟩ | ⟨-, -, heq'⟩
    · rw [heq']
      exact h.bookkeeping
    · rw [heq']
      exact h.bookkeeping
    · rw [heq']
      exact h.bookkeeping
  · rw [heq]
    exact h.bookkeeping
  · rwa [heq]

end Machine

open Machine

/-- Settles O9: `wrap` is only ever given what lies far below 2^22, so each body keeps phases wrapped and frequencies
bounded; every other operation leaves them or clears them. -/
theorem stepKeepsPhasesWrapped : Obligations.StepKeepsPhasesWrapped := by
  intro s t hinv hphase hstep
  refine (step_keeps (P := fun s => s.Inv ∧ s.PhaseInv) ?_ ?_ ?_ ?_ ?_ ?_ ⟨hinv, hphase⟩ hstep).2
  · rintro s rest ⟨h, hphase⟩
    exact ⟨h.bookkeeping, hphase.bookkeeping⟩
  · rintro s w ⟨h, hphase⟩
    exact ⟨h.bookkeeping, hphase.bookkeeping⟩
  · rintro s addr v ⟨h, hphase⟩
    exact ⟨inv_plainWrite addr v h, phaseInv_plainWrite addr v hphase⟩
  · rintro s ⟨h, hphase⟩
    exact ⟨h.refusedWith .illegal, hphase.bookkeeping⟩
  · rintro i s t ⟨h, hphase⟩ hexec
    exact ⟨inv_exec h hexec, phaseInv_exec h hphase hexec⟩
  · rintro s ⟨h, -⟩
    exact ⟨inv_hardwareReset h, fun hwarm => absurd rfl hwarm⟩

end Sys2Proof
end

section
/-! SUPPORT. The guard counters (10_state.md R39, 60_exceptions.md R256): how many events each operation counts. -/

namespace Sys2Proof

/-! ### Saturating sums -/

theorem satAdd_zero (c : Word) : satAdd c 0 = c := by
  apply BitVec.eq_of_toNat_eq
  have := c.isLt
  rw [satAdd_toNat]
  omega

theorem satAdd_satAdd (c : Word) (j k : Nat) : satAdd (satAdd c j) k = satAdd c (j + k) := by
  apply BitVec.eq_of_toNat_eq
  rw [satAdd_toNat, satAdd_toNat, satAdd_toNat]
  omega

namespace Machine

/-! ### Events counted -/

/-- From `s` to `t`, `ni` events of `DIAG_NI` and `bbv` of `DIAG_BBV` are counted, and neither `DIAG_POR` nor `CMDERR`
changes. -/
structure Counts (ni bbv : Nat) (s t : State) : Prop where
  diagNi : t.diagNi = satAdd s.diagNi ni
  diagBbv : t.diagBbv = satAdd s.diagBbv bbv
  diagPor : t.diagPor = s.diagPor
  cmderr : t.cmderr = s.cmderr

theorem counts_none {s t : State} (hni : t.diagNi = s.diagNi) (hbbv : t.diagBbv = s.diagBbv)
    (hpor : t.diagPor = s.diagPor) (herr : t.cmderr = s.cmderr) : Counts 0 0 s t :=
  ⟨by rw [satAdd_zero, hni], by rw [satAdd_zero, hbbv], hpor, herr⟩

theorem Counts.trans {ni bbv ni' bbv' : Nat} {s t u : State} (h : Counts ni bbv s t) (h' : Counts ni' bbv' t u) :
    Counts (ni + ni') (bbv + bbv') s u :=
  ⟨by rw [h'.diagNi, h.diagNi, satAdd_satAdd], by rw [h'.diagBbv, h.diagBbv, satAdd_satAdd],
    h'.diagPor.trans h.diagPor, h'.cmderr.trans h.cmderr⟩

theorem Counts.countFrame {ni bbv : Nat} {s t : State} (h : Counts ni bbv s t) (n : Word) :
    Counts ni bbv s { t with framecnt := n } := ⟨h.diagNi, h.diagBbv, h.diagPor, h.cmderr⟩

theorem counts_fftf (s : State) : Counts 0 0 s (bodyFftf s) := by
  obtain ⟨_, _, heq⟩ := bodyFftf_writes s
  rw [heq]
  exact counts_none rfl rfl rfl rfl

theorem counts_ffti (s : State) : Counts 0 0 s (bodyFfti s) := by
  obtain ⟨_, _, _, heq⟩ := bodyFfti_writes s
  rw [heq]
  exact counts_none rfl rfl rfl rfl

theorem counts_herm (s : State) : Counts 0 0 s (bodyHerm s) := by
  obtain ⟨_, _, _, _, heq⟩ := bodyHerm_writes s
  rw [heq]
  exact counts_none rfl rfl rfl rfl

theorem counts_extract (s : State) : Counts 0 0 s (bodyExtract s) := counts_none rfl rfl rfl rfl

theorem counts_polar (s : State) : Counts 0 0 s (bodyPolar s) := counts_none rfl rfl rfl rfl

theorem counts_track (s : State) : Counts 0 0 s (bodyTrack s) := counts_none rfl rfl rfl rfl

theorem counts_accum (s : State) : Counts 0 0 s (bodyAccum s) := counts_none rfl rfl rfl rfl

theorem counts_numericalInstability (s : State) : Counts 1 0 s (raiseGuard .numericalInstability s) :=
  ⟨rfl, (satAdd_zero _).symm, rfl, rfl⟩

theorem counts_bufferBoundsViolation (s : State) : Counts 0 1 s (raiseGuard .bufferBoundsViolation s) :=
  ⟨(satAdd_zero _).symm, rfl, rfl, rfl⟩

theorem counts_acceptFrame (s : State) : ∃ ni, ni ≤ 1 ∧ Counts ni 0 s (acceptFrame s) := by
  rcases acceptFrame_cases s with heq | heq | ⟨-, heq⟩
  · rw [heq]
    exact ⟨0, by decide, counts_none rfl rfl rfl rfl⟩
  · rw [heq]
    exact ⟨1, by decide, counts_numericalInstability s⟩
  · rw [heq]
    exact ⟨0, by decide, counts_none rfl rfl rfl rfl⟩

theorem counts_mapBins (s : State) : Counts 0 0 s (mapBins s) := by
  obtain ⟨_, _, heq⟩ := mapBins_writes s
  rw [heq]
  exact counts_none rfl rfl rfl rfl

theorem counts_gateBins (s : State) : Counts 0 0 s (gateBins s) := by
  obtain ⟨_, heq⟩ := gateBins_writes s
  rw [heq]
  exact counts_none rfl rfl rfl rfl

theorem counts_setHop (s : State) : Counts 0 0 s (setHop s) := counts_none rfl rfl rfl rfl

/-- `MODIFY` counts at most one event, where it rejects a frame (44_modifier.md R181). -/
theorem counts_modify (s : State) : ∃ ni, ni ≤ 1 ∧ Counts ni 0 s (bodyModify s) := by
  obtain ⟨ni, hni, haccept⟩ := counts_acceptFrame s
  exact ⟨ni, hni, ((haccept.trans (counts_mapBins _)).trans (counts_gateBins _)).trans (counts_setHop _)⟩

theorem counts_accumulate (s : State) : ∃ ni, ni ≤ 1 ∧ Counts ni 0 s (accumulate s) := by
  unfold accumulate
  split
  · exact ⟨0, by decide, counts_none rfl rfl rfl rfl⟩
  · exact ⟨1, by decide, counts_numericalInstability s⟩

theorem counts_settle (s : State) : Counts 0 0 s (settle s) := by
  unfold settle
  split
  · exact counts_none rfl rfl rfl rfl
  · exact counts_none rfl rfl rfl rfl

/-- `OLAW` counts at most one event, of one class or the other (46_overlap_add.md R211, R212). -/
theorem counts_olaw (s : State) : ∃ ni bbv, ni + bbv ≤ 1 ∧ Counts ni bbv s (bodyOlaw s) := by
  unfold bodyOlaw
  split
  · exact ⟨0, 1, by decide, counts_bufferBoundsViolation s⟩
  · obtain ⟨ni, hni, hacc⟩ := counts_accumulate s
    have hadvance : Counts 0 0 (accumulate s) (advanceWriter (accumulate s)) := counts_none rfl rfl rfl rfl
    exact ⟨ni, 0, hni, (hacc.trans hadvance).trans (counts_settle _)⟩

/-- `FRAME` counts at most one event at `MODIFY` and at most one at `OLAW` (60_exceptions.md R256). -/
theorem counts_frame (s : State) : ∃ ni bbv, bbv ≤ 1 ∧ ni + bbv ≤ 2 ∧ Counts ni bbv s (bodyFrame s) := by
  have htrack := ((counts_extract s).trans (counts_fftf _)).trans (counts_polar _) |>.trans (counts_track _)
  obtain ⟨ni, hni, hmodify⟩ := counts_modify (bodyTrack (bodyPolar (bodyFftf (bodyExtract s))))
  have hffti := ((htrack.trans hmodify).trans (counts_accum _)).trans (counts_herm _) |>.trans (counts_ffti _)
  obtain ⟨ni', bbv, hone, holaw⟩ := counts_olaw
    (bodyFfti (bodyHerm (bodyAccum (bodyModify (bodyTrack (bodyPolar (bodyFftf (bodyExtract s))))))))
  have hparts : Counts (ni + ni') bbv s (frameParts s) := by
    rw [frameParts]
    simpa only [Nat.zero_add, Nat.add_zero] using hffti.trans holaw
  refine ⟨ni + ni', bbv, by omega, by omega, ?_⟩
  rw [bodyFrame_eq]
  exact hparts.countFrame _

theorem counts_pop (i : Nat) (s : State) : ∃ ni, Counts ni 0 s (bodyPop i s) := by
  unfold bodyPop
  split
  · exact ⟨0, counts_none rfl rfl rfl rfl⟩
  · split
    · exact ⟨0, counts_none rfl rfl rfl rfl⟩
    · unfold emitSample
      split
      · exact ⟨0, counts_none rfl rfl rfl rfl⟩
      · exact ⟨1, rfl, (satAdd_zero _).symm, rfl, rfl⟩

theorem counts_processSample (i : Nat) (s : State) : ∃ ni bbv, Counts ni bbv s (processSample i s) := by
  have hpush : Counts 0 0 s (bodyPush i s) := counts_none rfl rfl rfl rfl
  have hframe : ∃ ni bbv, Counts ni bbv s (frameIfDue (bodyPush i s)) := by
    unfold frameIfDue
    split
    · obtain ⟨ni, bbv, -, -, hframe⟩ := counts_frame (bodyPush i s)
      exact ⟨_, _, hpush.trans hframe⟩
    · exact ⟨0, 0, hpush⟩
  obtain ⟨ni, bbv, hframe⟩ := hframe
  obtain ⟨ni', hpop⟩ := counts_pop i (frameIfDue (bodyPush i s))
  exact ⟨_, _, hframe.trans hpop⟩

theorem counts_process (n : Nat) (s : State) : ∃ ni bbv, Counts ni bbv s (bodyProcess n s) := by
  refine forRange_keeps (P := fun t => ∃ ni bbv, Counts ni bbv s t) ⟨0, 0, counts_none rfl rfl rfl rfl⟩ ?_
  rintro i t - ⟨ni, bbv, ht⟩
  obtain ⟨ni', bbv', hsample⟩ := counts_processSample i t
  exact ⟨_, _, ht.trans hsample⟩

theorem counts_pipelineBody (i : Instr) (s : State) : ∃ ni bbv, Counts ni bbv s (pipelineBody i s) := by
  cases i with
  | process n => exact counts_process n s
  | frame =>
    obtain ⟨ni, bbv, -, -, h⟩ := counts_frame s
    exact ⟨ni, bbv, h⟩
  | fftf => exact ⟨0, 0, counts_fftf s⟩
  | ffti => exact ⟨0, 0, counts_ffti s⟩
  | modify =>
    obtain ⟨ni, -, h⟩ := counts_modify s
    exact ⟨ni, 0, h⟩
  | herm => exact ⟨0, 0, counts_herm s⟩
  | olaw =>
    obtain ⟨ni, bbv, -, h⟩ := counts_olaw s
    exact ⟨ni, bbv, h⟩
  | pop k =>
    obtain ⟨ni, h⟩ := counts_pop k s
    exact ⟨ni, 0, h⟩
  | _ => exact ⟨0, 0, counts_none rfl rfl rfl rfl⟩

theorem counts_prepared (variant : Variant) (m : Nat) (s : State) : Counts 0 0 s (prepared variant m s) :=
  counts_none rfl rfl rfl rfl

theorem counts_bodyReset (s : State) : Counts 0 0 s (bodyReset s) := counts_none rfl rfl rfl rfl

/-! ### Counters that only grow -/

/-- No guard counter goes down and `CMDERR` stays set (10_state.md R36, R39). -/
structure CountersKept (s t : State) : Prop where
  diagNi : s.diagNi.toNat ≤ t.diagNi.toNat
  diagBbv : s.diagBbv.toNat ≤ t.diagBbv.toNat
  diagPor : s.diagPor.toNat ≤ t.diagPor.toNat
  cmderr : s.cmderr = true → t.cmderr = true

theorem CountersKept.refl (s : State) : CountersKept s s := ⟨Nat.le_refl _, Nat.le_refl _, Nat.le_refl _, id⟩

theorem Counts.kept {ni bbv : Nat} {s t : State} (h : Counts ni bbv s t) : CountersKept s t :=
  ⟨h.diagNi ▸ le_satAdd _ _, h.diagBbv ▸ le_satAdd _ _, h.diagPor ▸ Nat.le_refl _, fun hs => h.cmderr.trans hs⟩

theorem CountersKept.finish {s t : State} (h : CountersKept s t) (r : ResultCode) : CountersKept s (finish r t) :=
  ⟨h.diagNi, h.diagBbv, h.diagPor, fun hs => by rw [finish_cmderr, h.cmderr hs, Bool.true_or]⟩

theorem countersKept_refusedWith (r : ResultCode) (s : State) : CountersKept s (refusedWith r s) :=
  ⟨Nat.le_refl _, Nat.le_refl _, Nat.le_refl _, fun _ => rfl⟩

theorem countersKept_exec {i : Instr} {s t : State} (h : exec i s = .next t) : CountersKept s t := by
  rcases exec_cases h with ⟨r, -, rfl⟩ | ⟨-, rfl⟩ | ⟨-, rfl⟩ | ⟨v, m, variant, -, -, rfl⟩ | ⟨-, rfl⟩ | ⟨-, -, rfl⟩
  · exact countersKept_refusedWith r s
  · exact ⟨Nat.le_refl _, Nat.le_refl _, Nat.le_refl _, fun _ => rfl⟩
  · exact (CountersKept.refl s).finish .ok
  · exact (counts_prepared variant m s).kept.finish .ok
  · exact (counts_bodyReset s).kept.finish .ok
  · obtain ⟨ni, bbv, hbody⟩ := counts_pipelineBody i s
    exact hbody.kept.finish .ok

theorem countersKept_plainWrite (addr : BitVec 22) (v : Word) (s : State) : CountersKept s (plainWrite addr v s) := by
  have hguard : CountersKept s (raiseGuard .parameterOutOfRange s) :=
    ⟨Nat.le_refl _, Nat.le_refl _, le_satAdd _ _, id⟩
  rcases plainWrite_cases addr v s with ⟨-, heq⟩ | ⟨i, -, heq⟩ | ⟨i, -, -, heq⟩ | heq
  · rw [heq]
    exact ⟨Nat.le_refl _, Nat.le_refl _, Nat.le_refl _, id⟩
  · rw [heq]
    rcases paramWrite_cases i v s with ⟨-, heq'⟩ | ⟨-, -, heq'⟩ | ⟨-, -, heq'⟩
    · rwa [heq']
    · rw [heq']
      exact ⟨hguard.diagNi, hguard.diagBbv, hguard.diagPor, hguard.cmderr⟩
    · rw [heq']
      exact ⟨Nat.le_refl _, Nat.le_refl _, Nat.le_refl _, id⟩
  · rw [heq]
    exact ⟨Nat.le_refl _, Nat.le_refl _, Nat.le_refl _, id⟩
  · rw [heq]
    exact CountersKept.refl s

theorem countersKept_access {a : HostAccess} {s t : State} (ha : a ≠ .hardwareReset) (h : access a s = .next t) :
    CountersKept s t := by
  rcases access_cases a s with ⟨w, heq⟩ | ⟨addr, v, -, heq⟩ | heq | ⟨hreset, -⟩
  · rw [heq] at h
    cases h
    exact ⟨Nat.le_refl _, Nat.le_refl _, Nat.le_refl _, id⟩
  · rw [heq] at h
    rcases memWrite_cases addr v s with ⟨-, i, -, hm⟩ | ⟨-, e, -, hm⟩ | ⟨-, hm⟩
    · exact countersKept_exec (hm ▸ h)
    · rw [hm] at h
      cases h
      exact countersKept_refusedWith _ s
    · rw [hm] at h
      cases h
      exact countersKept_plainWrite addr v s
  · rw [heq] at h
    cases h
    exact CountersKept.refl s
  · exact absurd hreset ha

end Machine

open Machine

/-- Settles O16: every operation but hardware reset counts events up or none, and `FRAME` those of `MODIFY` and
`OLAW`. -/
theorem guardCountersOnlyGrow : Obligations.GuardCountersOnlyGrow := by
  intro s t
  refine ⟨fun a ha h => ?_, fun h => ?_⟩
  · obtain ⟨hni, hbbv, hpor, herr⟩ := countersKept_access ha h
    exact ⟨hni, hbbv, hpor, herr⟩
  · rw [exec_eq_pipelineCommand s rfl] at h
    rcases pipelineCommand_cases h with ⟨-, rfl⟩ | ⟨-, hok, -⟩ | ⟨-, -, rfl⟩
    · exact ⟨0, 0, (satAdd_zero _).symm, (satAdd_zero _).symm, by decide, by decide⟩
    · cases hok
    · obtain ⟨ni, bbv, hone, htwo, hframe⟩ := counts_frame s
      have hbody : pipelineBody .frame s = bodyFrame s := rfl
      rw [hbody, finish_diagNi, finish_diagBbv]
      exact ⟨ni, bbv, hframe.diagNi, hframe.diagBbv, hone, htwo⟩

end Sys2Proof
end

section
/-! SUPPORT. What a host reads (10_state.md R36, R62) and what hardware reset leaves (R61). -/

namespace Sys2Proof

namespace Machine

/-! ### `STATUS` -/

theorem getLsbD_eq_decide (w : Word) (k : Nat) : w.getLsbD k = decide (w.toNat / 2 ^ k % 2 = 1) := by
  rw [BitVec.getLsbD, Nat.testBit_eq_decide_div_mod_eq]

theorem LState.code_lt (l : LState) : l.code < 3 := by
  cases l <;> decide

theorem Variant.code_lt (v : Variant) : v.code < 5 := by
  cases v <;> decide

/-- `STATUS` as the sum of its fields, each at its place (R36). -/
theorem status_toNat (s : State) : (status s).toNat =
    s.lstate.code + 2 ^ 3 * (frameReady s).toNat + 2 ^ 4 * s.cmderr.toNat + 2 ^ 5 * s.variant.code
      + 2 ^ 8 * (frozen s).toNat := by
  have := s.lstate.code_lt
  have := s.variant.code_lt
  have := (frameReady s).toNat_le
  have := s.cmderr.toNat_le
  have := (frozen s).toNat_le
  rw [status, BitVec.toNat_ofNat]
  omega

/-- A flag is the bit that holds it. -/
theorem decide_flag {n : Nat} {b : Bool} (h : n % 2 = b.toNat) : decide (n % 2 = 1) = b := by
  rw [h]
  cases b <;> rfl

/-- The fields of `STATUS` (10_state.md R36). -/
theorem status_fields (s : State) :
    (status s).toNat % 4 = s.lstate.code ∧ (status s).getLsbD 2 = false ∧ (status s).getLsbD 3 = frameReady s
    ∧ (status s).getLsbD 4 = s.cmderr ∧ (status s).toNat / 2 ^ 5 % 8 = s.variant.code
    ∧ (status s).getLsbD 8 = frozen s ∧ (status s).toNat < 2 ^ 9 := by
  have hl := s.lstate.code_lt
  have hv := s.variant.code_lt
  have hf := (frameReady s).toNat_le
  have he := s.cmderr.toNat_le
  have hz := (frozen s).toNat_le
  simp only [getLsbD_eq_decide]
  rw [status_toNat]
  refine ⟨by omega, decide_eq_false (by omega), decide_flag (by omega), decide_flag (by omega), by omega,
    decide_flag (by omega), by omega⟩

/-! ### The register map -/

theorem controlRead_of_lt {a : Nat} (s : State) (h : 0x013 < a) : controlRead s a = none := by
  unfold controlRead
  split <;> first | omega | rfl

theorem paramAt_of_lt {a : Nat} (h : a < 0x020 ∨ 0x026 < a) : paramAt a = none := by
  cases hp : paramAt a with
  | none => rfl
  | some i =>
    have := paramAt_range hp
    omega

/-- Above the control registers and outside the parameters, a read finds an element of `BUF` or nothing (R62). -/
theorem memRead_of_lt {s : State} {a : BitVec 22} (hcontrol : 0x013 < a.toNat)
    (hparam : a.toNat < 0x020 ∨ 0x026 < a.toNat) : memRead s a = ((bufIndex s.cfg a.toNat).map s.bufWord).getD 0 := by
  unfold memRead
  rw [controlRead_of_lt s hcontrol, paramAt_of_lt hparam]
  cases bufIndex s.cfg a.toNat <;> rfl

theorem memRead_buf {s : State} {i : Nat} (hsize : s.cfg.maxBlkHw ≤ 2 ^ 21 - 1) (hi : i < s.cfg.maxBlkHw) :
    memRead s (BitVec.ofNat 22 (0x1000 + i)) = s.bufWord i := by
  have haddr : (BitVec.ofNat 22 (0x1000 + i)).toNat = bufBase + i := by
    rw [BitVec.toNat_ofNat, bufBase]
    omega
  have hbase : bufBase = 0x1000 := rfl
  rw [memRead_of_lt (by omega) (by omega), bufIndex_eq_some.2 ⟨haddr, hi⟩]
  rfl

theorem memRead_reserved {s : State} {a : BitVec 22} (h : 0x013 < a.toNat ∧ a.toNat < 0x020
    ∨ 0x026 < a.toNat ∧ a.toNat < 0x1000 ∨ 0x1000 + s.cfg.maxBlkHw ≤ a.toNat) : memRead s a = 0 := by
  have hbase : bufBase = 0x1000 := rfl
  have hnone : bufIndex s.cfg a.toNat = none := by
    cases hb : bufIndex s.cfg a.toNat with
    | none => rfl
    | some i =>
      have := bufIndex_eq_some.1 hb
      omega
  rw [memRead_of_lt (by omega) (by omega), hnone]
  rfl

end Machine

open Machine

/-- Settles O53: `STATUS` by its fields, the other registers by the map, the rest by the window. -/
theorem registersReadAsMapped : Obligations.RegistersReadAsMapped := by
  intro s
  have hstatus : memRead s 0x001 = status s := rfl
  obtain ⟨hlstate, hbusy, hready, herr, hvariant, hfrozen, htop⟩ := status_fields s
  have hmaxblk : (memRead s 0x007).toNat = s.maxblk.toNat := by
    have := s.maxblk.isLt
    show (s.maxblk.setWidth 32).toNat = _
    rw [BitVec.toNat_setWidth]
    omega
  rw [hstatus]
  refine ⟨hlstate, hbusy, ?_, herr, hvariant, ?_, htop, rfl, rfl, rfl, rfl, rfl, rfl, hmaxblk, rfl, rfl, rfl, rfl, rfl,
    rfl, rfl, rfl, rfl, rfl, rfl, rfl, rfl, rfl, rfl, rfl, rfl, rfl, rfl, fun i => memRead_buf, fun a => memRead_reserved⟩
  · rw [hready, frameReady, Bool.decide_and]
  · rw [hfrozen, frozen, Bool.decide_and, Bool.decide_eq_true]

/-- Settles O10: the reset state is written out field by field in the model; `STATUS` is the word of its zero fields. -/
theorem hardwareResetValues : Obligations.HardwareResetValues := by
  intro s
  exact ⟨hardwareReset s, rfl, rfl, rfl, rfl, rfl, rfl, rfl, rfl, rfl, rfl, rfl, rfl, rfl, rfl, rfl, rfl, rfl, rfl,
    rfl, rfl, rfl, rfl, rfl, rfl, rfl, rfl, rfl, rfl⟩

end Sys2Proof
end

section
/-! SUPPORT. Where accesses and butterflies land: a plain write at each kind of address (10_state.md R62, 20_memory.md
R81), a bridged access (R82, R83), and the two elements a butterfly reads and writes (20_memory.md R94, 42_fft.md
R152). -/

namespace Sys2Proof

namespace Machine

/-! ### Plain writes -/

theorem memWrite_plain {addr : BitVec 22} (v : Word) (s : State) (h : addr.toNat ≠ 0x000) :
    memWrite addr v s = .next (plainWrite addr v s) := if_neg h

theorem bufAddr_toNat {c : Cfg} {i : Nat} (hsize : c.maxBlkHw ≤ 2 ^ 21 - 1) (hi : i < c.maxBlkHw) :
    (BitVec.ofNat 22 (0x1000 + i)).toNat = bufBase + i := by
  rw [BitVec.toNat_ofNat, bufBase]
  omega

theorem bufIndex_of_outside {c : Cfg} {a : Nat} (h : a < bufBase ∨ bufBase + c.maxBlkHw ≤ a) :
    bufIndex c a = none :=
  if_neg (by omega)

/-- Outside `ARG0` and the parameters, a plain write stores in an element of `BUF` or does nothing (R62). -/
theorem plainWrite_of_lt {s : State} {a : BitVec 22} (v : Word) (harg : a.toNat ≠ 0x005)
    (hparam : a.toNat < 0x020 ∨ 0x026 < a.toNat) :
    plainWrite a v s = ((bufIndex s.cfg a.toNat).map (s.setBuf · v)).getD s := by
  unfold plainWrite
  rw [if_neg harg, paramAt_of_lt hparam]
  cases bufIndex s.cfg a.toNat <;> rfl

theorem write_buf {s : State} {i : Nat} (v : Word) (hsize : s.cfg.maxBlkHw ≤ 2 ^ 21 - 1) (hi : i < s.cfg.maxBlkHw) :
    access (.write (BitVec.ofNat 22 (0x1000 + i)) v) s = .next (s.setBuf i v) := by
  have haddr := bufAddr_toNat hsize hi
  have hbase : bufBase = 0x1000 := rfl
  rw [access, memWrite_plain v s (by omega), plainWrite_of_lt v (by omega) (by omega),
    bufIndex_eq_some.2 ⟨haddr, hi⟩]
  rfl

theorem write_unmapped {s : State} {a : BitVec 22} (v : Word) (hcmd : a.toNat ≠ 0x000) (harg : a.toNat ≠ 0x005)
    (h : a.toNat < 0x020 ∨ 0x026 < a.toNat ∧ a.toNat < 0x1000 ∨ 0x1000 + s.cfg.maxBlkHw ≤ a.toNat) :
    access (.write a v) s = .next s := by
  have hbase : bufBase = 0x1000 := rfl
  rw [access, memWrite_plain v s hcmd, plainWrite_of_lt v harg (by omega), bufIndex_of_outside (by omega)]
  rfl

/-- A write to `BUF[i]` leaves every byte outside it. -/
theorem readByte_setBuf_outside (s : State) {i a : Nat} (w : Word) (h : a < bufByteAddr i 0 ∨ bufByteAddr i 3 < a) :
    Memory.readByte (s.setBuf i w).buf a = Memory.readByte s.buf a := by
  rw [State.setBuf, Memory.readByte_writeWord, if_neg (by omega)]

/-! ### The bridge -/

theorem bridged_aligned {b : BitVec 24} {size : Nat} (h : size = 4 ∧ b.toNat % 4 = 0) :
    bridged b size = some (BitVec.ofNat 22 (b.toNat / 4)) := if_pos h

theorem bridged_other {b : BitVec 24} {size : Nat} (h : size ≠ 4 ∨ b.toNat % 4 ≠ 0) : bridged b size = none :=
  if_neg (by omega)

/-! ### Butterflies -/

/-- Element `k` is one of the two operands of butterfly `q` of a stage (R152). -/
def IsOperand (stage q k : Nat) : Prop := k = bflyA stage q ∨ k = bflyB stage q

/-- An operand names its butterfly: its group, then its place in the half group. -/
theorem IsOperand.butterfly_eq {stage q k : Nat} (hstage : 1 ≤ stage) (h : IsOperand stage q k) :
    k / 2 ^ stage * (2 ^ stage / 2) + k % (2 ^ stage / 2) = q := by
  obtain ⟨j, rfl⟩ : ∃ j, stage = j + 1 := ⟨stage - 1, by omega⟩
  have hhalf : 2 ^ (j + 1) / 2 = 2 ^ j := by rw [pow_succ]; omega
  have hpos : 0 < 2 ^ j := by positivity
  have hrest : q % 2 ^ j < 2 ^ j := Nat.mod_lt _ hpos
  obtain ⟨r, hr, hk⟩ : ∃ r, r < 2 ∧ k = q % 2 ^ j + 2 ^ j * r + 2 ^ (j + 1) * (q / 2 ^ j) := by
    rcases h with rfl | rfl
    · exact ⟨0, by decide, by rw [bflyA, hhalf]; ring⟩
    · exact ⟨1, by decide, by rw [bflyB, bflyA, hhalf]; ring⟩
  have hlow : q % 2 ^ j + 2 ^ j * r < 2 ^ (j + 1) := by
    rw [pow_succ]
    have := Nat.mul_le_mul_left (2 ^ j) (Nat.le_of_lt_succ hr)
    omega
  have hgroup : k / 2 ^ (j + 1) = q / 2 ^ j := by
    rw [hk, Nat.add_mul_div_left _ _ (by positivity), Nat.div_eq_of_lt hlow, Nat.zero_add]
  have hplace : k % 2 ^ j = q % 2 ^ j := by
    rw [hk, pow_succ, Nat.mul_assoc, Nat.add_assoc, ← Nat.mul_add, Nat.add_mul_mod_self_left, Nat.mod_mod]
  rw [hhalf, hgroup, hplace, Nat.div_add_mod']

/-- The butterflies of one stage have no operand in common (R94). -/
theorem IsOperand.disjoint {stage q q' k : Nat} (hstage : 1 ≤ stage) (hne : q ≠ q') (h : IsOperand stage q k) :
    ¬ IsOperand stage q' k := fun h' =>
  hne ((h.butterfly_eq hstage).symm.trans (h'.butterfly_eq hstage))

/-- Two states hold the same complex element `k` in `XR` and `XI`. -/
def SameAt (k : Nat) (s t : State) : Prop := Arr.get s.xr k = Arr.get t.xr k ∧ Arr.get s.xi k = Arr.get t.xi k

theorem SameAt.symm {k : Nat} {s t : State} (h : SameAt k s t) : SameAt k t s := ⟨h.1.symm, h.2.symm⟩

theorem SameAt.trans {k : Nat} {s t u : State} (h : SameAt k s t) (h' : SameAt k t u) : SameAt k s u :=
  ⟨h.1.trans h'.1, h.2.trans h'.2⟩

/-- A butterfly writes no element but its operands. -/
theorem bodyBfly_elsewhere {stage q k : Nat} (inv : Bool) (s : State) (h : ¬ IsOperand stage q k) :
    SameAt k (bodyBfly inv stage q s) s := by
  obtain ⟨ha, hb⟩ := not_or.1 h
  simp only [SameAt, bodyBfly, Arr.get_set, ha, hb, if_false, and_self]

/-- What a butterfly writes depends on its operands only. -/
theorem bodyBfly_congr {stage q k : Nat} (inv : Bool) {s t : State} (hcfg : s.cfg = t.cfg)
    (h : ∀ j, IsOperand stage q j → SameAt j s t) (hk : IsOperand stage q k) :
    SameAt k (bodyBfly inv stage q s) (bodyBfly inv stage q t) := by
  obtain ⟨har, hai⟩ := h _ (.inl rfl)
  obtain ⟨hbr, hbi⟩ := h _ (.inr rfl)
  rcases hk with rfl | rfl <;> simp only [SameAt, bodyBfly, Arr.get_set, hcfg, har, hai, hbr, hbi, and_self]

/-- At an operand of `q`, running another butterfly of the stage before or after `q` makes no difference. -/
theorem bodyBfly_comm_operand {stage q q' k : Nat} (inv : Bool) (s : State) (hstage : 1 ≤ stage) (hne : q ≠ q')
    (hk : IsOperand stage q k) :
    SameAt k (bodyBfly inv stage q' (bodyBfly inv stage q s)) (bodyBfly inv stage q (bodyBfly inv stage q' s)) := by
  have hafter : SameAt k (bodyBfly inv stage q' (bodyBfly inv stage q s)) (bodyBfly inv stage q s) :=
    bodyBfly_elsewhere inv _ (hk.disjoint hstage hne)
  have hbefore : SameAt k (bodyBfly inv stage q s) (bodyBfly inv stage q (bodyBfly inv stage q' s)) :=
    bodyBfly_congr inv rfl (fun j hj => (bodyBfly_elsewhere inv s (hj.disjoint hstage hne)).symm) hk
  exact hafter.trans hbefore

/-- Two butterflies of one stage commute on every element. -/
theorem bodyBfly_comm {stage : Nat} (inv : Bool) (s : State) (q q' k : Nat) (hstage : 1 ≤ stage) :
    SameAt k (bodyBfly inv stage q' (bodyBfly inv stage q s)) (bodyBfly inv stage q (bodyBfly inv stage q' s)) := by
  by_cases hqq : q = q'
  · subst hqq
    exact ⟨rfl, rfl⟩
  by_cases hq : IsOperand stage q k
  · exact bodyBfly_comm_operand inv s hstage hqq hq
  by_cases hq' : IsOperand stage q' k
  · exact (bodyBfly_comm_operand inv s hstage (Ne.symm hqq) hq').symm
  · have hleft := (bodyBfly_elsewhere inv (bodyBfly inv stage q s) hq').trans (bodyBfly_elsewhere inv s hq)
    have hright := (bodyBfly_elsewhere inv (bodyBfly inv stage q' s) hq).trans (bodyBfly_elsewhere inv s hq')
    exact hleft.trans hright.symm

/-- The body of `BFLY` does not look at how commands ended. -/
theorem bodyBfly_finish (inv : Bool) (stage q : Nat) (r : ResultCode) (s : State) :
    bodyBfly inv stage q (finish r s) = finish r (bodyBfly inv stage q s) := rfl

/-- A `BFLY` that ends `OK` passed its checks. -/
theorem bfly_accepted {inv : Bool} {stage q : Nat} {s t : State} (h : exec (.bfly inv stage q) s = .next t)
    (hok : t.result = .ok) : s.lstate ≠ .cold ∧ butterflyOk s stage q = true := by
  rw [exec_eq_pipelineCommand s rfl] at h
  rcases pipelineCommand_cases h with ⟨-, rfl⟩ | ⟨-, -, rfl⟩ | ⟨hwarm, hbfly, -⟩
  · cases hok
  · cases hok
  · exact ⟨hwarm, hbfly⟩

theorem exec_bfly {stage q : Nat} (inv : Bool) {s : State} (hwarm : s.lstate ≠ .cold)
    (hbfly : butterflyOk s stage q = true) :
    exec (.bfly inv stage q) s = .next (finish .ok (bodyBfly inv stage q s)) := by
  rw [exec_eq_pipelineCommand s rfl, operandsOk, hbfly, pipelineCommand_runs _ hwarm]
  rfl

/-- Whether a later `BFLY` is accepted does not depend on an earlier one: neither check reads what `BFLY` writes. -/
theorem bfly_keeps_checks {inv : Bool} {stage q : Nat} {s t : State} (h : exec (.bfly inv stage q) s = .next t) :
    t.lstate = s.lstate ∧ ∀ stage' q', butterflyOk t stage' q' = butterflyOk s stage' q' := by
  rw [exec_eq_pipelineCommand s rfl] at h
  rcases pipelineCommand_cases h with ⟨-, rfl⟩ | ⟨-, -, rfl⟩ | ⟨-, -, rfl⟩ <;> exact ⟨rfl, fun _ _ => rfl⟩

/-- Two acceptable butterflies in a row run both their bodies. -/
theorem exec_bfly_bfly {inv : Bool} {stage q q' : Nat} {s t u : State} (hwarm : s.lstate ≠ .cold)
    (hq : butterflyOk s stage q = true) (hq' : butterflyOk s stage q' = true)
    (h : exec (.bfly inv stage q) s = .next t) (h' : exec (.bfly inv stage q') t = .next u) :
    u = finish .ok (finish .ok (bodyBfly inv stage q' (bodyBfly inv stage q s))) := by
  obtain ⟨hlstate, hchecks⟩ := bfly_keeps_checks h
  rw [exec_bfly inv (by rwa [hlstate]) (by rwa [hchecks])] at h'
  rw [exec_bfly inv hwarm hq] at h
  cases h
  cases h'
  rw [bodyBfly_finish]

theorem one_le_of_butterflyOk {s : State} {stage q : Nat} (h : butterflyOk s stage q = true) : 1 ≤ stage := by
  simp only [butterflyOk, Bool.and_eq_true, decide_eq_true_eq] at h
  obtain ⟨⟨hlow, -⟩, -⟩ := h
  exact hlow

end Machine

open Machine

/-- Settles O27: butterflies of one stage have disjoint operands, and each reads and writes its own only. -/
theorem stageOrderDoesNotMatter : Obligations.StageOrderDoesNotMatter := by
  intro s t u t' u' inv stage q q' hst htu hst' htu' hok hok' k
  obtain ⟨hlstate, hchecks⟩ := bfly_keeps_checks hst
  obtain ⟨-, hchecks'⟩ := bfly_keeps_checks hst'
  obtain ⟨hwarm, hq'⟩ := bfly_accepted htu hok
  obtain ⟨-, hq⟩ := bfly_accepted htu' hok'
  rw [hlstate] at hwarm
  rw [hchecks] at hq'
  rw [hchecks'] at hq
  rw [exec_bfly_bfly hwarm hq hq' hst htu, exec_bfly_bfly hwarm hq' hq hst' htu']
  exact bodyBfly_comm inv s q q' k (one_le_of_butterflyOk hq)

/-- Settles O54: reads and `ARG0` by the map, `BUF` by what a word write does to its bytes, the rest by the window. -/
theorem plainAccessesLandWhereMapped : Obligations.PlainAccessesLandWhereMapped := by
  intro s v hsize
  refine ⟨fun _ => rfl, rfl, fun i hi => ?_, fun a => write_unmapped v⟩
  exact ⟨s.setBuf i v, write_buf v hsize hi, s.bufWord_setBuf_self i v, fun a => readByte_setBuf_outside s v, rfl⟩

/-- Settles O57: an access goes by the address the bridge makes of it, and without one it has no effect. -/
theorem bridgeHonoursAlignedWords : Obligations.BridgeHonoursAlignedWords := by
  intro s b size v
  refine ⟨fun h => ?_, fun h => ?_⟩
  · simp only [access, bridged_aligned h, and_self]
  · simp only [access, bridged_other h, and_self]

end Sys2Proof
end

section
/-! SUPPORT. The encoding read both ways (30_encoding.md R111 to R117): what `decode` does at each opcode, the fields of
the word `encode` writes, and what a write of a word to `CMD` does. -/

namespace Sys2Proof

open Machine (decide_flag)

/-! ### What `decode` does at an opcode -/

/-- The opcode column of R114. -/
def opcodes : List Nat :=
  [0x00, 0x01, 0x02, 0x03, 0x04, 0x10, 0x11, 0x20, 0x21, 0x22, 0x23, 0x24, 0x25, 0x26, 0x30, 0x31, 0x40, 0x50, 0x51,
    0x60, 0x61]

/-- The zero field of the format of a command, read from a word; format `P` has none (R111). -/
def zeroField (w : Word) : Instr → Nat
  | .prepare _ _ => 0
  | .process _ | .push _ | .pop _ => field w 23 21
  | .bfly _ _ _ => field w 22 20
  | .nop | .reset | .frame | .extract | .loadx | .bitrev | .zim | .scaley | .fftf | .ffti | .polar | .track
  | .modify | .accum | .herm | .olaw => field w 23 0

/-- The command with its operands replaced by those that a word carries in the fields of its format (R111). -/
def withOperandsOf (w : Word) : Instr → Instr
  | .prepare _ _ => .prepare (field w 23 21) (field w 20 0)
  | .process _ => .process (field w 20 0)
  | .push _ => .push (field w 20 0)
  | .bfly _ _ _ => .bfly (decide (field w 23 23 = 1)) (field w 19 16) (field w 15 0)
  | .pop _ => .pop (field w 20 0)
  | i => i

theorem mem_opcodes_iff {n : Nat} : n ∈ opcodes ↔ ∃ i, opcode i = n := by
  constructor
  · simp only [opcodes, List.mem_cons, List.not_mem_nil, or_false]
    rintro (rfl | rfl | rfl | rfl | rfl | rfl | rfl | rfl | rfl | rfl | rfl | rfl | rfl | rfl | rfl | rfl | rfl | rfl
      | rfl | rfl | rfl)
    exacts [⟨.nop, rfl⟩, ⟨.prepare 0 0, rfl⟩, ⟨.reset, rfl⟩, ⟨.process 0, rfl⟩, ⟨.frame, rfl⟩, ⟨.push 0, rfl⟩,
      ⟨.extract, rfl⟩, ⟨.loadx, rfl⟩, ⟨.bitrev, rfl⟩, ⟨.bfly false 0 0, rfl⟩, ⟨.zim, rfl⟩, ⟨.scaley, rfl⟩,
      ⟨.fftf, rfl⟩, ⟨.ffti, rfl⟩, ⟨.polar, rfl⟩, ⟨.track, rfl⟩, ⟨.modify, rfl⟩, ⟨.accum, rfl⟩, ⟨.herm, rfl⟩,
      ⟨.olaw, rfl⟩, ⟨.pop 0, rfl⟩]
  · rintro ⟨i, rfl⟩
    cases i <;> simp [opcode, opcodes]

/-- At the opcode of a command, `decode` tests the zero field of its format and reads its operands (R113). -/
theorem decode_of_opcode {w : Word} {i : Instr} (h : field w 31 24 = opcode i) :
    decode w = if zeroField w i = 0 then .ok (withOperandsOf w i) else .error .nonZeroField := by
  rw [decode, h]
  cases i <;> rfl

/-- Every other top byte is reserved (R113, R114). -/
theorem decode_reserved {w : Word} (h : field w 31 24 ∉ opcodes) : decode w = .error .reservedOpcode := by
  unfold decode
  split
  case h_22 => rfl
  all_goals exact absurd (by rw [‹field w 31 24 = _›]; decide) h

/-- A word that decodes holds the opcode of a command, a zero field of zero and the operands (R113). -/
theorem decode_eq_ok {w : Word} {i : Instr} (h : decode w = .ok i) :
    ∃ j, field w 31 24 = opcode j ∧ zeroField w j = 0 ∧ i = withOperandsOf w j := by
  by_cases hmem : field w 31 24 ∈ opcodes
  · obtain ⟨j, hj⟩ := mem_opcodes_iff.1 hmem
    rw [decode_of_opcode hj.symm] at h
    split at h
    · next hzero =>
      cases h
      exact ⟨j, hj.symm, hzero, rfl⟩
    · cases h
  · rw [decode_reserved hmem] at h
    cases h

/-- At the opcode of a command, exactly the words with a non-zero zero field are illegal (R113, R115). -/
theorem decode_error_iff_of_opcode {w : Word} {i : Instr} (h : field w 31 24 = opcode i) :
    (∃ e, decode w = .error e) ↔ zeroField w i ≠ 0 := by
  rw [decode_of_opcode h]
  split <;> next hzero => simp [hzero]

/-! ### The word of a command -/

/-- The opcode byte is all that stands above bits 23:0 (R111). -/
theorem field_top (w : Word) : field w 31 24 = w.toNat / 2 ^ 24 := by
  have := w.isLt
  rw [field]
  omega

/-- `inv` weighs 2^23: it is bit 23 (R111). -/
theorem operandBits_bfly (inv : Bool) (stage q : Nat) :
    operandBits (.bfly inv stage q) = inv.toNat * 2 ^ 23 + stage * 2 ^ 16 + q := by
  cases inv <;> simp [operandBits]

/-- The layout lemmas of the 21 commands, as one. -/
theorem encode_layout {i : Instr} (h : i.wellFormed = true) :
    operandBits i < 2 ^ 24 ∧ (encode i).toNat = opcode i * 2 ^ 24 + operandBits i := by
  cases i with
  | prepare v m => exact Laws.WordLayout.prepare v m h
  | process n => exact Laws.WordLayout.process n h
  | push k => exact Laws.WordLayout.push k h
  | bfly inv stage q => exact Laws.WordLayout.bfly inv stage q h
  | pop k => exact Laws.WordLayout.pop k h
  | _ => exact Laws.WordLayout.of_bits (by decide)

theorem field_encode_top {i : Instr} (h : i.wellFormed = true) : field (encode i) 31 24 = opcode i := by
  obtain ⟨hbits, hword⟩ := encode_layout h
  rw [field_top, hword]
  omega

/-- Below the opcode byte, the fields of a command's word are those of its operand bits. -/
theorem field_encode {i : Instr} {hi lo : Nat} (h : i.wellFormed = true) (hlo : lo ≤ hi) (hhi : hi < 24) :
    field (encode i) hi lo = operandBits i / 2 ^ lo % 2 ^ (hi + 1 - lo) := by
  obtain ⟨-, hword⟩ := encode_layout h
  have hsplit : opcode i * 2 ^ 24 = 2 ^ lo * (2 ^ (hi + 1 - lo) * (opcode i * 2 ^ (23 - hi))) := by
    rw [show 24 = lo + ((hi + 1 - lo) + (23 - hi)) by omega, pow_add, pow_add]
    ring
  rw [field, hword, hsplit, Nat.mul_add_div (by positivity), Nat.mul_add_mod]

/-- `encode` writes zero in the zero field of the command's format (R111). -/
theorem zeroField_encode {i : Instr} (h : i.wellFormed = true) : zeroField (encode i) i = 0 := by
  cases i with
  | prepare => rfl
  | process n | push n | pop n =>
    have hn : n < 2 ^ 21 := by simpa [Instr.wellFormed] using h
    rw [zeroField, field_encode h (by decide) (by decide), operandBits]
    omega
  | bfly inv stage q =>
    have hk : stage < 2 ^ 4 ∧ q < 2 ^ 16 := by simpa [Instr.wellFormed] using h
    have hinv := inv.toNat_le
    rw [zeroField, field_encode h (by decide) (by decide), operandBits_bfly]
    omega
  | _ =>
    rw [zeroField, field_encode h (by decide) (by decide)]
    rfl

/-- `encode` writes every operand to the field it is read from (R111, R112). -/
theorem withOperandsOf_encode {i : Instr} (h : i.wellFormed = true) : withOperandsOf (encode i) i = i := by
  cases i with
  | prepare v m =>
    have hk : v < 2 ^ 3 ∧ m < 2 ^ 21 := by simpa [Instr.wellFormed] using h
    rw [withOperandsOf, field_encode h (by decide) (by decide), field_encode h (by decide) (by decide), operandBits,
      Instr.prepare.injEq]
    omega
  | process n | push n | pop n =>
    have hn : n < 2 ^ 21 := by simpa [Instr.wellFormed] using h
    rw [withOperandsOf, field_encode h (by decide) (by decide), operandBits]
    congr 1
    omega
  | bfly inv stage q =>
    have hk : stage < 2 ^ 4 ∧ q < 2 ^ 16 := by simpa [Instr.wellFormed] using h
    rw [withOperandsOf, field_encode h (by decide) (by decide), field_encode h (by decide) (by decide),
      field_encode h (by decide) (by decide), operandBits_bfly, Instr.bfly.injEq]
    have hinv := inv.toNat_le
    exact ⟨decide_flag (by omega), by omega, by omega⟩
  | _ => rfl

/-! ### The command of a word -/

theorem opcode_withOperandsOf (w : Word) (i : Instr) : opcode (withOperandsOf w i) = opcode i := by
  cases i <;> rfl

theorem field_lt (w : Word) (hi lo : Nat) : field w hi lo < 2 ^ (hi + 1 - lo) :=
  Nat.mod_lt _ (by positivity)

/-- A bit read as a flag weighs what it is. -/
theorem toNat_decide_field (w : Word) (k : Nat) : (decide (field w k k = 1)).toNat = field w k k := by
  have hbit : field w k k < 2 := by simpa [field] using field_lt w k k
  obtain h | h : field w k k = 0 ∨ field w k k = 1 := by omega
  · rw [h]; rfl
  · rw [h]; rfl

/-- Operands read from fields fit them. -/
theorem wellFormed_withOperandsOf (w : Word) (i : Instr) : (withOperandsOf w i).wellFormed = true := by
  cases i with
  | prepare => simpa [withOperandsOf, Instr.wellFormed] using ⟨field_lt w 23 21, field_lt w 20 0⟩
  | process | push | pop => simpa [withOperandsOf, Instr.wellFormed] using field_lt w 20 0
  | bfly => simpa [withOperandsOf, Instr.wellFormed] using ⟨field_lt w 19 16, field_lt w 15 0⟩
  | _ => rfl

/-- The zero field and the operand fields of a format cover bits 23:0 (R111). -/
theorem operandBits_withOperandsOf {w : Word} {i : Instr} (h : zeroField w i = 0) :
    operandBits (withOperandsOf w i) = w.toNat % 2 ^ 24 := by
  cases i with
  | prepare | process | push | pop =>
    simp only [zeroField, withOperandsOf, operandBits, field] at h ⊢
    omega
  | bfly =>
    rw [withOperandsOf, operandBits_bfly, toNat_decide_field]
    simp only [zeroField, field] at h ⊢
    omega
  | _ =>
    simp only [zeroField, withOperandsOf, operandBits, field] at h ⊢
    omega

/-- The word is the command's when its top byte and its other bits are. -/
theorem encode_eq {w : Word} {i : Instr} (hop : opcode i = w.toNat / 2 ^ 24)
    (hbits : operandBits i = w.toNat % 2 ^ 24) : encode i = w := by
  rw [encode, hop, hbits, Nat.div_add_mod', BitVec.ofNat_toNat, BitVec.setWidth_eq]

/-! ### Words written to `CMD` -/

namespace Machine

/-- A write of a word to `CMD` executes the word (20_memory.md R81). -/
theorem access_commandWrite (w : Word) (s : State) : access (commandWrite w) s = executeWord w s := rfl

theorem executeWord_ok {w : Word} {i : Instr} (s : State) (h : decode w = .ok i) : executeWord w s = exec i s := by
  rw [executeWord, h]

theorem executeWord_error {w : Word} {e : Illegal} (s : State) (h : decode w = .error e) :
    executeWord w s = .next (refusedWith .illegal s) := by
  rw [executeWord, h, ← finish_refused (by decide)]

/-- The step of a build takes the next access off the stream and performs it (20_memory.md R86). -/
theorem step_of_pending {s : State} {a : HostAccess} {rest : List HostAccess} (hwf : s.cfg.wf = true)
    (h : s.pending = a :: rest) : step s = access a { s with pending := rest } := by
  rw [step, if_pos hwf, performNext, h]

/-- A step whose next access writes a decodable word to `CMD` executes its command. -/
theorem step_commandWrite {s : State} {w : Word} {i : Instr} {rest : List HostAccess} (hwf : s.cfg.wf = true)
    (h : s.pending = commandWrite w :: rest) (hdec : decode w = .ok i) :
    step s = exec i { s with pending := rest } := by
  rw [step_of_pending hwf h, access_commandWrite, executeWord_ok _ hdec]

theorem withFetchWord_pending (s : State) (w : Word) :
    (s.withFetchWord 32 w.toNat).pending = commandWrite w :: s.pending := by
  rw [State.withFetchWord, Nat.mod_eq_of_lt w.isLt, BitVec.ofNat_toNat, BitVec.setWidth_eq]

/-! ### Refusals -/

theorem exec_cold {i : Instr} {s : State} (hneeds : needsPrepared i = true) (h : s.lstate = .cold) :
    exec i s = .next (refusedWith .notPrepared s) := by
  rw [exec_eq_pipelineCommand s hneeds, pipelineCommand_cold _ _ h]

theorem exec_badArg {i : Instr} {s : State} (hneeds : needsPrepared i = true) (h : s.lstate ≠ .cold)
    (hargs : operandsOk s i = false) : exec i s = .next (refusedWith .badArg s) := by
  rw [exec_eq_pipelineCommand s hneeds, hargs, pipelineCommand_badArg _ h]

theorem butterflyOk_eq_false {s : State} {stage q : Nat} (h : stage = 0 ∨ s.cfg.log2n < stage ∨ s.cfg.h ≤ q) :
    butterflyOk s stage q = false := by
  rw [butterflyOk, ← Bool.decide_and, ← Bool.decide_and]
  exact decide_eq_false (by omega)

end Machine

open Machine

/-- Settles O2: at the opcode of its word, a command is read back from the fields `encode` filled. -/
theorem encodedCommandDecodes : Obligations.EncodedCommandDecodes := by
  intro i h
  rw [decode_of_opcode (field_encode_top h), if_pos (zeroField_encode h), withOperandsOf_encode h]

/-- Settles O3: opcode byte, zero field and operand fields of a format leave no bit of the word over. -/
theorem decodedWordReencodes : Obligations.DecodedWordReencodes := by
  intro w i h
  obtain ⟨j, hop, hzero, rfl⟩ := decode_eq_ok h
  refine ⟨wellFormed_withOperandsOf w j, encode_eq ?_ (operandBits_withOperandsOf hzero)⟩
  rw [opcode_withOperandsOf, ← hop, field_top]

/-- Settles O4: a listed opcode leaves the zero field of its command's format to test, any other is reserved. -/
theorem illegalWordOnlyCounts : Obligations.IllegalWordOnlyCounts := by
  intro w s
  constructor
  · rw [← field_top]
    by_cases hmem : field w 31 24 ∈ opcodes
    · obtain ⟨i, hi⟩ := mem_opcodes_iff.1 hmem
      rw [decode_error_iff_of_opcode hi.symm, ← hi]
      cases i <;> simp [opcode, zeroField, field]
    · exact iff_of_true ⟨_, decode_reserved hmem⟩ (.inl hmem)
  · rintro ⟨e, he⟩
    rw [access_commandWrite, executeWord_error s he]

/-- Settles O13: the lifecycle check comes first, and the operand check of each command is the one R114 lists. -/
theorem refusalsFollowDecodeOrder : Obligations.RefusalsFollowDecodeOrder := by
  intro s
  refine ⟨fun hcold i hneeds => exec_cold hneeds hcold, fun hwarm => ⟨?process, ?push, ?pop, ?bfly⟩⟩
  case process => exact fun n hn => exec_badArg rfl hwarm (decide_eq_false (by omega))
  case push => exact fun i hi => exec_badArg rfl hwarm (decide_eq_false (by omega))
  case pop => exact fun i hi => exec_badArg rfl hwarm (decide_eq_false (by omega))
  case bfly => exact fun inv stage q h => exec_badArg rfl hwarm (butterflyOk_eq_false h)

/-- Settles O1: the decoder run on the words. -/
theorem sampleWordsDecode : Obligations.SampleWordsDecode := by
  unfold Obligations.SampleWordsDecode
  decide

/-- Settles O5: the step performs the write, and the word of a command decodes to it. -/
theorem stepRunsDecodedCommand : Obligations.StepRunsDecodedCommand := by
  intro s hwf
  refine ⟨fun w i rest hpending hdec => step_commandWrite hwf hpending hdec, fun i h => ?_⟩
  exact step_commandWrite hwf (withFetchWord_pending s (encode i)) (encodedCommandDecodes i h)

end Sys2Proof
end

section
/-! SUPPORT. The frame buffer commands (41_frame_buffer.md): the equation of an accepted `PUSH` and `EXTRACT`, and the hop
counter along a run of pushes. -/

namespace Sys2Proof

namespace Machine

/-! ### Accepted commands -/

/-- A pipeline command whose checks pass runs its body and ends `OK` (47_facade.md R220). -/
theorem exec_accepted {i : Instr} {s : State} (hneeds : needsPrepared i = true) (hwarm : s.lstate ≠ .cold)
    (hargs : operandsOk s i = true) : exec i s = .next (finish .ok (pipelineBody i s)) := by
  rw [exec_eq_pipelineCommand s hneeds, hargs, pipelineCommand_runs _ hwarm]

theorem exec_push {i : Nat} {s : State} (hwarm : s.lstate ≠ .cold) (hi : i < s.maxblk.toNat) :
    exec (.push i) s = .next (finish .ok (bodyPush i s)) :=
  exec_accepted rfl hwarm (decide_eq_true hi)

theorem exec_extract {s : State} (hwarm : s.lstate ≠ .cold) :
    exec .extract s = .next (finish .ok (bodyExtract s)) :=
  exec_accepted rfl hwarm rfl

theorem execAll_cons {i : Instr} {s t : State} (is : List Instr) (h : exec i s = .next t) :
    execAll (i :: is) s = execAll is t := by
  rw [execAll, h]

/-! ### What `PUSH` and `EXTRACT` write -/

@[simp] theorem bodyPush_hopcnt (i : Nat) (s : State) :
    (bodyPush i s).hopcnt = if s.hopcnt = s.cfg.ha then 1 else s.hopcnt + 1 := rfl

theorem bodyPush_ring (i : Nat) (s : State) :
    (bodyPush i s).ring = Arr.set s.ring s.rwp (F.ofBits (s.bufWord i)) := rfl

theorem get_bodyExtract_frame (s : State) (j : Nat) : Arr.get (bodyExtract s).frame j =
    if j < s.cfg.n then F.mul (Arr.get s.ring ((s.rwp + j) % s.cfg.n)) (s.cfg.waAt j) else Arr.get s.frame j :=
  Arr.get_fill _ _ _ _

/-! ### The hop counter -/

/-- `HOPCNT` in closed form: its value `m` pushes after it was clear, with a hop of `ha` samples. -/
def hopAfter (ha : Nat) : Nat → Nat
  | 0 => 0
  | m + 1 => m % ha + 1

@[simp] theorem hopAfter_zero (ha : Nat) : hopAfter ha 0 = 0 := rfl

@[simp] theorem hopAfter_succ (ha m : Nat) : hopAfter ha (m + 1) = m % ha + 1 := rfl

/-- Counting on by one modulo `n` starts over exactly where it reaches `n`. -/
theorem succ_mod_eq_ite {n : Nat} (hn : 0 < n) (m : Nat) : (m + 1) % n = if m % n + 1 = n then 0 else m % n + 1 := by
  rw [← Nat.mod_add_mod]
  split
  · next hfull => rw [hfull, Nat.mod_self]
  · next hroom =>
    have hlt : m % n < n := Nat.mod_lt m hn
    exact Nat.mod_eq_of_lt (by omega)

/-- The update of `HOPCNT` in `PUSH` (41_frame_buffer.md R140) follows the closed form. -/
theorem hopAfter_next {ha : Nat} (hha : 1 ≤ ha) (m : Nat) :
    (if hopAfter ha m = ha then 1 else hopAfter ha m + 1) = hopAfter ha (m + 1) := by
  cases m with
  | zero => rw [hopAfter_zero, hopAfter_succ, Nat.zero_mod, if_neg (by omega)]
  | succ m =>
    rw [hopAfter_succ, hopAfter_succ, succ_mod_eq_ite hha]
    by_cases hfull : m % ha + 1 = ha
    · rw [if_pos hfull, if_pos hfull]
    · rw [if_neg hfull, if_neg hfull]

/-- The counter stands at the hop exactly after a positive multiple of it. -/
theorem hopAfter_eq_hop_iff {ha : Nat} (hha : 1 ≤ ha) (m : Nat) : hopAfter ha m = ha ↔ 0 < m ∧ m % ha = 0 := by
  cases m with
  | zero => exact iff_of_false (by rw [hopAfter_zero]; omega) (by omega)
  | succ m =>
    rw [hopAfter_succ, succ_mod_eq_ite hha]
    split
    · next hfull => exact iff_of_true hfull ⟨m.succ_pos, rfl⟩
    · next hroom => exact iff_of_false hroom (by omega)

/-- A run of accepted pushes leaves the engine prepared and counts `HOPCNT` on by its length. -/
theorem execAll_push {is : List Nat} {s t : State} {m : Nat} (hwarm : s.lstate ≠ .cold) (hha : 1 ≤ s.cfg.ha)
    (hhop : s.hopcnt = hopAfter s.cfg.ha m) (his : ∀ i ∈ is, i < s.maxblk.toNat)
    (h : execAll (is.map .push) s = some t) :
    t.lstate ≠ .cold ∧ t.cfg = s.cfg ∧ t.hopcnt = hopAfter s.cfg.ha (m + is.length) := by
  induction is generalizing s m with
  | nil =>
    cases h
    exact ⟨hwarm, rfl, hhop⟩
  | cons i is ih =>
    obtain ⟨hi, his⟩ := List.forall_mem_cons.1 his
    rw [List.map_cons, execAll_cons _ (exec_push hwarm hi)] at h
    have hnext : (finish .ok (bodyPush i s)).hopcnt = hopAfter s.cfg.ha (m + 1) := by
      rw [finish_hopcnt, bodyPush_hopcnt, hhop, hopAfter_next hha]
    rw [List.length_cons, Nat.add_comm is.length 1, ← Nat.add_assoc]
    exact ih (s := finish .ok (bodyPush i s)) hwarm hha hnext his h

end Machine

open Machine

/-- Settles O21: an accepted `PUSH` ends with its body's state, whose ring is `RING` with the element at `RWP` set. -/
theorem pushStoresSample : Obligations.PushStoresSample := by
  intro s i hwarm hi
  refine ⟨_, exec_push hwarm hi, ?stored, fun k hk => ?others, rfl, rfl, rfl, finish_ok _⟩
  case stored => rw [finish_ring, bodyPush_ring, Arr.get_set_self]
  case others => rw [finish_ring, bodyPush_ring, Arr.get_set_ne _ _ hk]

/-- Settles O22: `HOPCNT` follows its closed form along the pushes, and `FRDY` tests whether it has reached the hop. -/
theorem frameReadyEveryHop : Obligations.FrameReadyEveryHop := by
  intro s t is hwarm hclear hha his h
  obtain ⟨hwarm', hcfg, hhop⟩ := execAll_push (m := 0) hwarm hha hclear his h
  rw [Nat.zero_add] at hhop
  rw [frameReady, hcfg, hhop, decide_eq_true hwarm', Bool.true_and, decide_eq_decide]
  exact hopAfter_eq_hop_iff hha is.length

/-- Settles O23: an accepted `EXTRACT` ends with its body's state, whose `FRAME` is filled below N. -/
theorem extractWindowsRing : Obligations.ExtractWindowsRing := by
  intro s hwarm
  refine ⟨_, exec_extract hwarm, fun j hj => ?windowed, fun j hj => ?above, finish_ok _⟩
  case windowed => rw [finish_frame, get_bodyExtract_frame, if_pos hj]
  case above => rw [finish_frame, get_bodyExtract_frame, if_neg (by omega)]

end Sys2Proof
end

section
/-! SUPPORT. Bit reversal (00_scope.md R21) and the two ways a transform reorders the workspace by it: the scattered
writes of `LOADX` and the exchanges of `BITREV` (42_fft.md R150, R151). -/

namespace Sys2Proof

/-! ### Bit reversal -/

theorem testBit_bitrev (bits n i : Nat) :
    (bitrev bits n).testBit i = (decide (i < bits) && n.testBit (bits - 1 - i)) := by
  induction bits generalizing n with
  | zero => simp [bitrev]
  | succ b ih =>
    rw [bitrev, Nat.mul_comm, Nat.testBit_two_pow_mul_add _ (bitrev_lt b (n / 2)), ih]
    rcases Nat.lt_trichotomy i b with hlow | rfl | hhigh
    · have hbit : b + 1 - 1 - i = b - 1 - i + 1 := by omega
      rw [if_pos hlow, hbit, Nat.testBit_succ, decide_eq_true hlow, decide_eq_true (Nat.lt_succ_of_lt hlow)]
    · simp [Nat.testBit_zero]
    · obtain ⟨d, hd⟩ : ∃ d, i - b = d + 1 := ⟨i - b - 1, by omega⟩
      have hdiv : n % 2 / 2 = 0 := by omega
      rw [if_neg (by omega), hd, Nat.testBit_succ, hdiv, Nat.zero_testBit, decide_eq_false (by omega), Bool.false_and]

/-- Reversing twice gives the number back. -/
theorem bitrev_bitrev {bits n : Nat} (hn : n < 2 ^ bits) : bitrev bits (bitrev bits n) = n := by
  refine Nat.eq_of_testBit_eq fun i => ?_
  rw [testBit_bitrev, testBit_bitrev]
  by_cases hi : i < bits
  · have hback : bits - 1 - (bits - 1 - i) = i := by omega
    rw [hback, decide_eq_true hi, decide_eq_true (by omega), Bool.true_and, Bool.true_and]
  · have hsmall : n < 2 ^ i := lt_of_lt_of_le hn (Nat.pow_le_pow_right (by decide) (by omega))
    rw [decide_eq_false hi, Bool.false_and, Nat.testBit_lt_two_pow hsmall]

/-- Bit reversal is its own inverse on the indices of a build's workspace. -/
theorem Cfg.IsBuild.bitrev_bitrev {c : Cfg} (hc : c.IsBuild) {n : Nat} (hn : n < c.n) :
    bitrev c.log2n (bitrev c.log2n n) = n :=
  Sys2Proof.bitrev_bitrev (hc.nPow ▸ hn)

/-- Bit reversal pairs up the indices of the workspace. -/
theorem Cfg.IsBuild.bitrev_pairs {c : Cfg} (hc : c.IsBuild) (i : Nat) (hi : i < c.n) :
    bitrev c.log2n i < c.n ∧ bitrev c.log2n (bitrev c.log2n i) = i :=
  ⟨hc.bitrev_lt_n i, hc.bitrev_bitrev hi⟩

theorem Cfg.IsBuild.bitrev_injective {c : Cfg} (hc : c.IsBuild) {i j : Nat} (hi : i < c.n) (hj : j < c.n)
    (h : bitrev c.log2n i = bitrev c.log2n j) : i = j := by
  rw [← hc.bitrev_bitrev hi, h, hc.bitrev_bitrev hj]

namespace Machine

/-! ### Scattered writes -/

/-- An element that no pass of a loop of writes names is as before. -/
theorem Arr.get_scatter_of_ne {a : Arr} {n j : Nat} {p : Nat → Nat} (f : Nat → F) (h : ∀ i, i < n → j ≠ p i) :
    Arr.get (forRange n (fun i a => Arr.set a (p i) (f i)) a) j = Arr.get a j :=
  forRange_fixed (fun a => Arr.get a j) fun i _ hi => Arr.get_set_ne _ _ (h i hi)

/-- A loop of writes to different elements leaves in each what its own pass wrote. -/
theorem Arr.get_scatter {a : Arr} {n k : Nat} {p : Nat → Nat} (f : Nat → F)
    (hp : ∀ i j, i < n → j < n → p i = p j → i = j) (hk : k < n) :
    Arr.get (forRange n (fun i a => Arr.set a (p i) (f i)) a) (p k) = f k := by
  induction n with
  | zero => exact absurd hk (Nat.not_lt_zero k)
  | succ n ih =>
    rw [forRange_succ]
    rcases Nat.lt_succ_iff_lt_or_eq.1 hk with hlt | rfl
    · have hne : p k ≠ p n := fun h => absurd (hp k n hk (Nat.lt_succ_self n) h) (Nat.ne_of_lt hlt)
      rw [Arr.get_set_ne _ _ hne]
      exact ih (fun i j hi hj => hp i j (Nat.lt_succ_of_lt hi) (Nat.lt_succ_of_lt hj)) hlt
    · exact Arr.get_set_self _ _ _

/-! ### Exchanges -/

/-- The pass of `BITREV` for index `m`, with `r` for the reversal: the lower index of a pair exchanges it. -/
def exchangeAt (r : Nat → Nat) (m : Nat) (a : Arr) : Arr := if m < r m then Arr.swap a m (r m) else a

/-- The passes of `BITREV` for the indices below `m`. -/
def exchangeBelow (r : Nat → Nat) (m : Nat) (a : Arr) : Arr := forRange m (exchangeAt r) a

theorem permute_eq_exchangeBelow (c : Cfg) (a : Arr) : permute c a = exchangeBelow (bitrev c.log2n) c.n a := rfl

theorem exchangeBelow_succ (r : Nat → Nat) (m : Nat) (a : Arr) :
    exchangeBelow r (m + 1) a = exchangeAt r m (exchangeBelow r m a) := rfl

/-- A pass at the lower index of a pair exchanges the pair, and any other pass does nothing. -/
theorem get_exchangeAt {r : Nat → Nat} {m : Nat} (a : Arr) (hr : r (r m) = m) (k : Nat) :
    Arr.get (exchangeAt r m a) k = if m < r m ∧ (k = m ∨ k = r m) then Arr.get a (r k) else Arr.get a k := by
  unfold exchangeAt
  by_cases hlow : m < r m
  · rw [if_pos hlow, Arr.get_swap]
    by_cases hkr : k = r m
    · rw [if_pos hkr, if_pos ⟨hlow, Or.inr hkr⟩, hkr, hr]
    by_cases hkm : k = m
    · rw [if_neg hkr, if_pos hkm, if_pos ⟨hlow, Or.inl hkm⟩, hkm]
    · rw [if_neg hkr, if_neg hkm, if_neg fun h => not_or.2 ⟨hkm, hkr⟩ h.2]
  · rw [if_neg hlow, if_neg fun h => hlow h.1]

/-- After the passes below `m`, the pairs with an index below `m` have changed places. -/
theorem get_exchangeBelow {r : Nat → Nat} {n m k : Nat} (a : Arr) (hr : ∀ i, i < n → r i < n ∧ r (r i) = i)
    (hm : m ≤ n) (hk : k < n) :
    Arr.get (exchangeBelow r m a) k = if k < m ∨ r k < m then Arr.get a (r k) else Arr.get a k := by
  induction m generalizing k with
  | zero => exact (if_neg (by omega)).symm
  | succ m ih =>
    obtain ⟨hrm, hrrm⟩ := hr m hm
    obtain ⟨hrk, hrrk⟩ := hr k hk
    rw [exchangeBelow_succ, get_exchangeAt _ hrrm]
    by_cases hpass : m < r m ∧ (k = m ∨ k = r m)
    · have hpartner : k = m ∧ r k = r m ∨ k = r m ∧ r k = m := by
        rcases hpass.2 with rfl | rfl
        · exact Or.inl ⟨rfl, rfl⟩
        · exact Or.inr ⟨rfl, hrrm⟩
      rw [if_pos hpass, ih (Nat.le_of_lt hm) hrk, hrrk, if_neg (by omega), if_pos (by omega)]
    · rw [if_neg hpass, ih (Nat.le_of_lt hm) hk]
      by_cases hfixed : r k = k
      · rw [hfixed, ite_self, ite_self]
      · have hnew : k = m ∨ r k = m → k < m ∨ r k < m := by
          rintro (rfl | rfl)
          · omega
          · omega
        exact if_congr (by omega) rfl rfl

/-- The passes reach no element past the workspace. -/
theorem get_exchangeBelow_of_le {r : Nat → Nat} {n k : Nat} (a : Arr) (hr : ∀ i, i < n → r i < n ∧ r (r i) = i)
    (hk : n ≤ k) : Arr.get (exchangeBelow r n a) k = Arr.get a k := by
  refine forRange_fixed (fun a => Arr.get a k) fun m t hm => ?_
  obtain ⟨hrm, hrrm⟩ := hr m hm
  exact (get_exchangeAt t hrrm k).trans (if_neg (by omega))

theorem get_permute_of_lt {c : Cfg} (hc : c.IsBuild) (a : Arr) {k : Nat} (hk : k < c.n) :
    Arr.get (permute c a) k = Arr.get a (bitrev c.log2n k) := by
  rw [permute_eq_exchangeBelow, get_exchangeBelow a hc.bitrev_pairs le_rfl hk, if_pos (Or.inl hk)]

theorem get_permute_of_le {c : Cfg} (hc : c.IsBuild) (a : Arr) {k : Nat} (hk : c.n ≤ k) :
    Arr.get (permute c a) k = Arr.get a k :=
  get_exchangeBelow_of_le a hc.bitrev_pairs hk

/-- Permuting twice restores every element. -/
theorem get_permute_permute {c : Cfg} (hc : c.IsBuild) (a : Arr) (k : Nat) :
    Arr.get (permute c (permute c a)) k = Arr.get a k := by
  rcases Nat.lt_or_ge k c.n with hk | hk
  · rw [get_permute_of_lt hc _ hk, get_permute_of_lt hc _ (hc.bitrev_lt_n k), hc.bitrev_bitrev hk]
  · rw [get_permute_of_le hc _ hk, get_permute_of_le hc _ hk]

end Machine

end Sys2Proof
end

section
/-! SUPPORT. The primitive transform commands (42_fft.md R150 to R155): what each body writes, element by element. -/

namespace Sys2Proof

namespace Machine

/-! ### `LOADX` -/

theorem get_bodyLoadx_xr {s : State} (hc : s.cfg.IsBuild) {n : Nat} (hn : n < s.cfg.n) :
    Arr.get (bodyLoadx s).xr (bitrev s.cfg.log2n n) = Arr.get s.frame n :=
  Arr.get_scatter (Arr.get s.frame) (fun _ _ => hc.bitrev_injective) hn

theorem get_bodyLoadx_xi {s : State} (hc : s.cfg.IsBuild) {k : Nat} (hk : k < s.cfg.n) :
    Arr.get (bodyLoadx s).xi k = .zero := by
  have hwritten := Arr.get_scatter (a := s.xi) (fun _ => F.zero) (fun _ _ => hc.bitrev_injective) (hc.bitrev_lt_n k)
  rwa [hc.bitrev_bitrev hk] at hwritten

/-- `LOADX` writes no element past the workspace. -/
theorem bodyLoadx_beyond {s : State} (hc : s.cfg.IsBuild) {k : Nat} (hk : s.cfg.n ≤ k) :
    SameAt k (bodyLoadx s) s := by
  have hne : ∀ i, i < s.cfg.n → k ≠ bitrev s.cfg.log2n i := fun i _ => by
    have := hc.bitrev_lt_n i
    omega
  exact ⟨Arr.get_scatter_of_ne _ hne, Arr.get_scatter_of_ne _ hne⟩

/-! ### `BFLY` -/

/-- Position `j` of group `g` is butterfly `g * half + j` of its stage. -/
theorem bfly_position {stage g j : Nat} (hstage : 1 ≤ stage) (hj : j < 2 ^ (stage - 1)) :
    2 ^ stage / 2 = 2 ^ (stage - 1) ∧ (g * 2 ^ (stage - 1) + j) / 2 ^ (stage - 1) = g
      ∧ (g * 2 ^ (stage - 1) + j) % 2 ^ (stage - 1) = j := by
  obtain ⟨p, rfl⟩ : ∃ p, stage = p + 1 := ⟨stage - 1, by omega⟩
  rw [Nat.add_sub_cancel] at hj ⊢
  refine ⟨by rw [pow_succ]; omega, ?group, ?position⟩
  case group => rw [Nat.add_comm, Nat.add_mul_div_right _ _ (by positivity), Nat.div_eq_of_lt hj, Nat.zero_add]
  case position => rw [Nat.add_comm, Nat.add_mul_mod_self_right, Nat.mod_eq_of_lt hj]

/-- Where the butterfly at position `j` of group `g` reads and writes, and the twiddle it takes (R152). -/
theorem bfly_indices (c : Cfg) {stage g j : Nat} (hstage : 1 ≤ stage) (hj : j < 2 ^ (stage - 1)) :
    bflyA stage (g * 2 ^ (stage - 1) + j) = g * 2 ^ stage + j
      ∧ bflyB stage (g * 2 ^ (stage - 1) + j) = g * 2 ^ stage + j + 2 ^ (stage - 1)
      ∧ bflyT c stage (g * 2 ^ (stage - 1) + j) = j * (c.n / 2 ^ stage) := by
  obtain ⟨hhalf, hgroup, hposition⟩ := bfly_position (g := g) hstage hj
  simp only [bflyB, bflyA, bflyT, hhalf, hgroup, hposition, and_self]

theorem butterflyOk_of {s : State} {stage q : Nat} (hlow : 1 ≤ stage) (hhigh : stage ≤ s.cfg.log2n)
    (hq : q < s.cfg.h) : butterflyOk s stage q = true := by
  rw [butterflyOk, decide_eq_true hlow, decide_eq_true hhigh, decide_eq_true hq]
  rfl

/-- A pair written at two different indices reads back as written. -/
theorem Arr.get_set_pair (a : Arr) {i j : Nat} (v w : F) (hne : i ≠ j) :
    Arr.get (Arr.set (Arr.set a i v) j w) i = v ∧ Arr.get (Arr.set (Arr.set a i v) j w) j = w :=
  ⟨by rw [Arr.get_set_ne _ _ hne, Arr.get_set_self], Arr.get_set_self _ _ _⟩

/-! ### `ZIM` and `SCALEY` -/

theorem get_bodyZim_xi (s : State) (k : Nat) :
    Arr.get (bodyZim s).xi k = if k = 0 ∨ k = s.cfg.h then .zero else Arr.get s.xi k := by
  show Arr.get (Arr.set (Arr.set s.xi 0 F.zero) s.cfg.h F.zero) k = _
  rw [Arr.get_set, Arr.get_set]
  by_cases hh : k = s.cfg.h
  · rw [if_pos hh, if_pos (Or.inr hh)]
  · rw [if_neg hh]
    exact if_congr (or_iff_left hh).symm rfl rfl

theorem get_bodyScaley_y (s : State) (j : Nat) :
    Arr.get (bodyScaley s).y j = if j < s.cfg.n then F.mul (Arr.get s.xr j) s.cfg.invN else Arr.get s.y j :=
  Arr.get_fill _ _ _ _

end Machine

open Machine

/-- Settles O24: `LOADX` scatters `FRAME` by the reversal, which is a permutation of the workspace. -/
theorem loadxReversesIndices : Obligations.LoadxReversesIndices := by
  intro s hwf hwarm
  have hc := Cfg.isBuild hwf
  exact ⟨finish .ok (bodyLoadx s), exec_accepted rfl hwarm rfl, fun _ => get_bodyLoadx_xr hc,
    fun _ => get_bodyLoadx_xi hc, fun _ => bodyLoadx_beyond hc, finish_ok _⟩

/-- Settles O25: the exchanges amount to the reversal, which is its own inverse. -/
theorem bitrevPermutesWorkspace : Obligations.BitrevPermutesWorkspace := by
  intro s hwf hwarm
  have hc := Cfg.isBuild hwf
  refine ⟨finish .ok (bodyBitrev s), finish .ok (bodyBitrev (finish .ok (bodyBitrev s))), exec_accepted rfl hwarm rfl,
    exec_accepted rfl hwarm rfl, fun n hn => ?moved, fun k hk => ?beyond, fun k => ?restored, finish_ok _⟩
  case moved => exact ⟨get_permute_of_lt hc s.xr hn, get_permute_of_lt hc s.xi hn⟩
  case beyond => exact ⟨get_permute_of_le hc s.xr hk, get_permute_of_le hc s.xi hk⟩
  case restored => exact ⟨get_permute_permute hc s.xr k, get_permute_permute hc s.xi k⟩

/-- Settles O26: the butterfly's indices in closed form, and a pair of writes to each of `XR` and `XI`. -/
theorem bflyCombinesPair : Obligations.BflyCombinesPair := by
  intro s inv stage g j hwarm hlow hhigh hj hq
  obtain ⟨hia, hib, ht⟩ := bfly_indices s.cfg (g := g) hlow hj
  have hne : g * 2 ^ stage + j ≠ g * 2 ^ stage + j + 2 ^ (stage - 1) := by
    have : 0 < 2 ^ (stage - 1) := by positivity
    omega
  refine ⟨finish .ok (bodyBfly inv stage (g * 2 ^ (stage - 1) + j) s),
    exec_bfly inv hwarm (butterflyOk_of hlow hhigh hq), ?_, ?_, ?_, ?_,
    fun k ha hb => bodyBfly_elsewhere inv s ?elsewhere, finish_ok _⟩
  case elsewhere => rw [IsOperand, hia, hib]; exact not_or.2 ⟨ha, hb⟩
  all_goals simp only [finish_xr, finish_xi, bodyBfly, twiddleIm, hia, hib, ht, Arr.get_set_pair _ _ _ hne]

/-- Settles O28: `ZIM` writes +0 to the two edge bins of `XI`. -/
theorem zimClearsEdgeBins : Obligations.ZimClearsEdgeBins := by
  intro s hwarm
  refine ⟨finish .ok (bodyZim s), exec_accepted rfl hwarm rfl, ?_, ?_, fun k h0 hh => ?_, finish_ok _⟩
  · rw [finish_xi, get_bodyZim_xi, if_pos (.inl rfl)]
  · rw [finish_xi, get_bodyZim_xi, if_pos (.inr rfl)]
  · rw [finish_xi, get_bodyZim_xi, if_neg (not_or.2 ⟨h0, hh⟩)]

/-- Settles O29: `SCALEY` fills `Y` below N with the products. -/
theorem scaleyDividesByN : Obligations.ScaleyDividesByN := by
  intro s hwarm
  refine ⟨finish .ok (bodyScaley s), exec_accepted rfl hwarm rfl, fun j hj => ?_, fun j hj => ?_, finish_ok _⟩
  · rw [finish_y, get_bodyScaley_y, if_pos hj]
  · rw [finish_y, get_bodyScaley_y, if_neg (Nat.not_lt.2 hj)]

end Sys2Proof
end

section
/-! SUPPORT. The composite transform commands (42_fft.md R154, R156) against the command sequences they are defined as
(00_scope.md R23): a sequence of accepted commands runs their bodies in turn, and only `CSEQ` tells how many there
were. -/

namespace Sys2Proof

namespace Machine

/-! ### Runs of accepted commands -/

theorem execAll_append (is js : List Instr) (s : State) : execAll (is ++ js) s = (execAll is s).bind (execAll js) := by
  induction is generalizing s with
  | nil => rfl
  | cons i is ih =>
    rw [List.cons_append, execAll, execAll]
    cases exec i s with
    | next t => exact ih t
    | fault => rfl
    | refused => rfl

/-- The state after a command that ended `OK`, with `CSEQ` at `n`. -/
def endedAt (n : Word) (s : State) : State := { s with result := .ok, cseq := n }

theorem finish_ok_eq_endedAt (s : State) : finish .ok s = endedAt (s.cseq + 1) s := finish_ok s

/-- A prepared engine of build `c`. -/
def PreparedWith (c : Cfg) (s : State) : Prop := s.lstate ≠ .cold ∧ s.cfg = c

/-- On a prepared engine of build `c` the commands `is` all end `OK`, and leave what `body` makes of the state but for
`CSEQ`. -/
def RunsAs (c : Cfg) (is : List Instr) (body : State → State) : Prop :=
  ∀ s n, PreparedWith c s → PreparedWith c (body s) ∧ ∃ m, execAll is (endedAt n s) = some (endedAt m (body s))

theorem RunsAs.append {c : Cfg} {is js : List Instr} {f g : State → State} (hf : RunsAs c is f) (hg : RunsAs c js g) :
    RunsAs c (is ++ js) (fun s => g (f s)) := by
  intro s n hs
  obtain ⟨hfs, m, hm⟩ := hf s n hs
  obtain ⟨hgs, k, hk⟩ := hg (f s) m hfs
  exact ⟨hgs, k, by rw [execAll_append, hm, Option.bind_some, hk]⟩

/-- A list of runs, one for each pass of a loop, runs as the loop. -/
theorem RunsAs.flatMap_range {c : Cfg} {n : Nat} {is : Nat → List Instr} {f : Nat → State → State}
    (h : ∀ k, k < n → RunsAs c (is k) (f k)) : RunsAs c ((List.range n).flatMap is) (forRange n f) := by
  induction n with
  | zero => exact fun s n hs => ⟨hs, n, rfl⟩
  | succ n ih =>
    rw [List.range_succ, List.flatMap_append, List.flatMap_singleton]
    exact (ih fun k hk => h k (Nat.lt_succ_of_lt hk)).append (h n (Nat.lt_succ_self n))

/-- Only what a body does on prepared engines of the build counts. -/
theorem RunsAs.congr {c : Cfg} {is : List Instr} {f g : State → State} (h : RunsAs c is f)
    (hfg : ∀ s, s.cfg = c → f s = g s) : RunsAs c is g := fun s n hs => hfg s hs.2 ▸ h s n hs

/-- A command whose body neither looks at how commands ended nor changes whether the engine is prepared. -/
theorem RunsAs.single {c : Cfg} {i : Instr} (hneeds : needsPrepared i = true)
    (hargs : ∀ s, s.cfg = c → operandsOk s i = true)
    (hended : ∀ n s, pipelineBody i (endedAt n s) = endedAt n (pipelineBody i s))
    (hkeeps : ∀ s, PreparedWith c s → PreparedWith c (pipelineBody i s)) : RunsAs c [i] (pipelineBody i) := by
  intro s n hs
  refine ⟨hkeeps s hs, n + 1, ?_⟩
  have hexec : exec i (endedAt n s) = .next (endedAt (n + 1) (pipelineBody i s)) := by
    have hwarm : (endedAt n s).lstate ≠ .cold := hs.1
    rw [exec_accepted hneeds hwarm (hargs (endedAt n s) hs.2), hended, finish_ok_eq_endedAt]
    rfl
  rw [execAll_cons _ hexec, execAll]

/-! ### The parts of a transform -/

theorem runsAs_bfly {c : Cfg} (inv : Bool) {stage q : Nat} (hlow : 1 ≤ stage) (hhigh : stage ≤ c.log2n)
    (hq : q < c.h) : RunsAs c [.bfly inv stage q] (bodyBfly inv stage q) :=
  RunsAs.single rfl (fun _ hs => butterflyOk_of hlow (hs ▸ hhigh) (hs ▸ hq)) (fun _ _ => rfl) fun _ hs => hs

theorem runsAs_zim (c : Cfg) : RunsAs c [.zim] bodyZim :=
  RunsAs.single rfl (fun _ _ => rfl) (fun _ _ => rfl) fun _ hs => hs

theorem runsAs_scaley (c : Cfg) : RunsAs c [.scaley] bodyScaley :=
  RunsAs.single rfl (fun _ _ => rfl) (fun _ _ => rfl) fun _ hs => hs

theorem runsAs_stage {c : Cfg} (inv : Bool) {stage : Nat} (hlow : 1 ≤ stage) (hhigh : stage ≤ c.log2n) :
    RunsAs c ((List.range c.h).map fun q => .bfly inv stage q) (forRange c.h fun q s => bodyBfly inv stage q s) := by
  rw [List.map_eq_flatMap]
  exact RunsAs.flatMap_range fun q hq => runsAs_bfly inv hlow hhigh hq

/-- The butterflies as commands run as the stages of the composite commands. -/
theorem runsAs_butterflies (c : Cfg) (inv : Bool) : RunsAs c (butterflies c inv) (stages inv) := by
  have hloops : RunsAs c (butterflies c inv) (forRange c.log2n fun i s =>
      forRange s.cfg.h (fun q s => bodyBfly inv (1 + i) q s) s) := by
    refine RunsAs.flatMap_range fun i hi => ?_
    rw [Nat.add_comm i 1]
    exact (runsAs_stage inv (Nat.le_add_right 1 i) (by omega)).congr fun s hs => by rw [hs]
  refine hloops.congr fun s hs => ?_
  rw [stages, forSpan, Nat.add_sub_cancel, hs]

/-- A first command, then a run: the whole sequence from any prepared state. -/
theorem execAll_first {i : Instr} {is : List Instr} {body : State → State} {s : State}
    (hneeds : needsPrepared i = true) (hargs : operandsOk s i = true) (hwarm : s.lstate ≠ .cold)
    (hprepared : PreparedWith s.cfg (pipelineBody i s)) (hrun : RunsAs s.cfg is body) :
    ∃ m, execAll (i :: is) s = some (endedAt m (body (pipelineBody i s))) := by
  obtain ⟨-, m, hm⟩ := hrun (pipelineBody i s) ((pipelineBody i s).cseq + 1) hprepared
  exact ⟨m, by rw [execAll_cons _ (exec_accepted hneeds hwarm hargs), finish_ok_eq_endedAt, hm]⟩

theorem execAll_forwardCommands {s : State} (hwarm : s.lstate ≠ .cold) :
    ∃ m, execAll (forwardCommands s.cfg) s = some (endedAt m (bodyFftf s)) :=
  execAll_first (i := .loadx) rfl rfl hwarm ⟨hwarm, rfl⟩
    ((runsAs_butterflies s.cfg false).append (runsAs_zim s.cfg))

theorem execAll_inverseCommands {s : State} (hwarm : s.lstate ≠ .cold) :
    ∃ m, execAll (inverseCommands s.cfg) s = some (endedAt m (bodyFfti s)) :=
  execAll_first (i := .bitrev) rfl rfl hwarm ⟨hwarm, rfl⟩
    ((runsAs_butterflies s.cfg true).append (runsAs_scaley s.cfg))

/-! ### The composite commands -/

@[simp] theorem stages_cfg (inv : Bool) (s : State) : (stages inv s).cfg = s.cfg := by
  obtain ⟨_, _, h⟩ := stages_writes inv s
  rw [h]

/-- A command whose body leaves `CSEQ` alone advances it by one. -/
theorem exec_endedAt {i : Instr} {s : State} (hneeds : needsPrepared i = true) (hwarm : s.lstate ≠ .cold)
    (hargs : operandsOk s i = true) (hcseq : (pipelineBody i s).cseq = s.cseq) :
    exec i s = .next (endedAt (s.cseq + 1) (pipelineBody i s)) := by
  rw [exec_accepted hneeds hwarm hargs, finish_ok_eq_endedAt, hcseq]

theorem bodyFftf_cseq (s : State) : (bodyFftf s).cseq = s.cseq := by
  obtain ⟨_, _, hwrites⟩ := bodyFftf_writes s
  rw [hwrites]

theorem bodyFfti_cseq (s : State) : (bodyFfti s).cseq = s.cseq := by
  obtain ⟨_, _, _, hwrites⟩ := bodyFfti_writes s
  rw [hwrites]

/-- `FFTF` ends with `ZIM` (R153, R154). -/
theorem get_bodyFftf_xi_edge (s : State) {k : Nat} (hk : k = 0 ∨ k = s.cfg.h) :
    Arr.get (bodyFftf s).xi k = .zero := by
  have hcfg : (stages false (bodyLoadx s)).cfg = s.cfg := stages_cfg _ _
  rw [bodyFftf, get_bodyZim_xi, hcfg, if_pos hk]

/-- `FFTI` ends with `SCALEY` (R155, R156). -/
theorem get_bodyFfti_y (s : State) {j : Nat} (hj : j < s.cfg.n) :
    Arr.get (bodyFfti s).y j = F.mul (Arr.get (bodyFfti s).xr j) s.cfg.invN := by
  have hcfg : (stages true (bodyBitrev s)).cfg = s.cfg := stages_cfg _ _
  rw [bodyFfti, get_bodyScaley_y, hcfg, if_pos hj]
  rfl

end Machine

open Machine

/-- Settles O30: the sequence's bodies are those `FFTF` runs, and the last of them clears the edge bins. -/
theorem fftfIsItsParts : Obligations.FftfIsItsParts := by
  intro s hwarm
  obtain ⟨m, hm⟩ := execAll_forwardCommands hwarm
  refine ⟨_, hm, exec_endedAt rfl hwarm rfl (bodyFftf_cseq s), get_bodyFftf_xi_edge s (.inl rfl),
    get_bodyFftf_xi_edge s (.inr rfl), ?_⟩
  obtain ⟨_, _, hwrites⟩ := bodyFftf_writes s
  rw [hwrites]
  rfl

/-- Settles O31: the sequence's bodies are those `FFTI` runs, and the last of them scales `XR` into `Y`. -/
theorem fftiIsItsParts : Obligations.FftiIsItsParts := by
  intro s hwarm
  obtain ⟨m, hm⟩ := execAll_inverseCommands hwarm
  refine ⟨_, hm, exec_endedAt rfl hwarm rfl (bodyFfti_cseq s), fun j hj => get_bodyFfti_y s hj, ?_⟩
  obtain ⟨_, _, _, hwrites⟩ := bodyFfti_writes s
  rw [hwrites]
  rfl

end Sys2Proof
end

section
/-! SUPPORT. The polar conversion and the phase tracker (43_phase_tracker.md R170 to R174): what each body writes, bin by
bin, and the ranges of a bin's phase and frequency. -/

namespace Sys2Proof

/-- What is capped at a limit does not compare above it, of NaN too. -/
theorem F.lt_cap_eq_false (lim a : F) : F.lt lim (if F.lt lim a then lim else a) = false := by
  split
  · exact Bool.eq_false_iff.2 fun h => absurd (F.lt_iff.1 h).2.2 (Int.lt_irrefl _)
  · next h => exact Bool.eq_false_iff.2 h

namespace Machine

/-! ### `POLAR` -/

theorem get_bodyPolar_mag (s : State) (k : Nat) : Arr.get (bodyPolar s).mag k =
    if k < s.cfg.h + 1 then magnitude (Arr.get s.xr k) (Arr.get s.xi k) else Arr.get s.mag k :=
  Arr.get_fill _ _ _ _

theorem get_bodyPolar_ph (s : State) (k : Nat) : Arr.get (bodyPolar s).ph k =
    if k < s.cfg.h + 1 then s.cfg.num.fns.fatan2 (Arr.get s.xi k) (Arr.get s.xr k) else Arr.get s.ph k :=
  Arr.get_fill _ _ _ _

theorem magnitude_eq_nan_or_nonneg (re im : F) :
    magnitude re im = .nan ∨ F.le .zero (magnitude re im) = true :=
  (magnitude_sign re im).imp_right F.le_zero_of_isNonneg

/-- The phase of a pair without NaN lies in [-PI, PI] in every numeric record (00_scope.md R15 (b)). -/
theorem fatan2_within (num : NumChoice) {y x : F} (hy : y ≠ .nan) (hx : x ≠ .nan) :
    F.within (F.neg .pi) .pi (num.fns.fatan2 y x) = true := by
  obtain ⟨-, -, -, -, -, -, hrange, -⟩ := numericRecordsMeetRanges num
  exact (hrange y x hy hx).2

/-! ### `TRACK` -/

theorem get_bodyTrack_tif (s : State) (k : Nat) : Arr.get (bodyTrack s).tif k =
    if k < s.cfg.h + 1 then instFreq s.cfg k (Arr.get s.ph k) (Arr.get s.lastph k) else Arr.get s.tif k :=
  Arr.get_fill _ _ _ _

theorem get_bodyTrack_lastph (s : State) (k : Nat) : Arr.get (bodyTrack s).lastph k =
    if k < s.cfg.h + 1 then Arr.get s.ph k else Arr.get s.lastph k :=
  Arr.get_fill _ _ _ _

@[simp] theorem instFreq_zero (c : Cfg) (ph lastph : F) : instFreq c 0 ph lastph = .zero := rfl

/-- Above bin 0 the estimate is capped at twice the bin's centre frequency (R171). -/
theorem instFreq_of_ne_zero (c : Cfg) {k : Nat} (hk : k ≠ 0) (ph lastph : F) : instFreq c k ph lastph =
    let f := F.add (c.omega k) (F.div (F.wrap (F.sub (F.sub ph lastph) (c.expAdv k))) (F.ofInt c.ha))
    let lim := F.mul .two (c.omega k)
    if F.lt lim f then lim else f :=
  if_neg hk

end Machine

open Machine

/-- Settles O32: `POLAR` fills `MAG` and `PH` up to bin H; squares keep the root's operand from ±0 up, and every numeric
record keeps its phases to R15's range. -/
theorem polarConvertsBins : Obligations.PolarConvertsBins := by
  intro s hwarm
  refine ⟨finish .ok (bodyPolar s), exec_accepted rfl hwarm rfl, fun k hk => ?bins, fun k hk => ?above, finish_ok _⟩
  case bins =>
    rw [finish_mag, finish_ph, get_bodyPolar_mag, get_bodyPolar_ph, if_pos (Nat.lt_succ_of_le hk),
      if_pos (Nat.lt_succ_of_le hk)]
    exact ⟨rfl, rfl, magnitude_eq_nan_or_nonneg _ _, fun hxr hxi => fatan2_within _ hxi hxr⟩
  case above =>
    have hbeyond : ¬ k < s.cfg.h + 1 := by omega
    rw [finish_mag, finish_ph, get_bodyPolar_mag, get_bodyPolar_ph, if_neg hbeyond, if_neg hbeyond]
    exact ⟨rfl, rfl⟩

/-- Settles O33: `TRACK` fills `TIF` with the capped estimates and `LASTPH` with the phases, both up to bin H. -/
theorem trackEstimatesFrequencies : Obligations.TrackEstimatesFrequencies := by
  intro s hwarm
  refine ⟨finish .ok (bodyTrack s), exec_accepted rfl hwarm rfl, ?edge, fun k hlow hk => ?bins, fun k hk => ?recorded,
    fun k hk => ?above, finish_ok _⟩
  case edge => rw [finish_tif, get_bodyTrack_tif, if_pos (Nat.succ_pos _), instFreq_zero]
  case bins =>
    rw [finish_tif, get_bodyTrack_tif, if_pos (Nat.lt_succ_of_le hk),
      instFreq_of_ne_zero _ (Nat.one_le_iff_ne_zero.1 hlow)]
    exact ⟨rfl, F.lt_cap_eq_false _ _⟩
  case recorded => rw [finish_lastph, get_bodyTrack_lastph, if_pos (Nat.lt_succ_of_le hk)]
  case above =>
    have hbeyond : ¬ k < s.cfg.h + 1 := by omega
    rw [finish_tif, finish_lastph, get_bodyTrack_tif, get_bodyTrack_lastph, if_neg hbeyond, if_neg hbeyond]
    exact ⟨rfl, rfl⟩

end Sys2Proof
end

section
/-! SUPPORT. The modifier (44_modifier.md R180 to R186): what each of its four steps leaves, bin by bin, and the identity
of a ratio of 1.0. -/

namespace Sys2Proof

namespace F

/-! ### Neutral operands -/

theorem one_eq_fin : one = .fin false NumRef.oneMag := by decide +kernel

theorem mul_one_of_isFinite {a : F} (h : a.isFinite = true) : mul a .one = a := by
  obtain ⟨s, m, rfl⟩ := isFinite_iff.1 h
  rw [one_eq_fin, mul_fin, Bool.xor_false, units_oneMag]
  exact round_exact (by positivity) rfl

/-- The sign has to be clear: +0 plus -0 is +0 (00_scope.md R14). -/
theorem zero_add_of_isNonneg {a : F} (h : a.isNonneg = true) : add .zero a = a := by
  obtain rfl | ⟨m, rfl⟩ := isNonneg_iff.1 h
  · rfl
  · rw [zero, add_fin, finUnits_zero, Int.zero_add, finUnits_false, Bool.false_and]
    split
    · next hzero =>
      have hval : (0 : Nat) = m.val := bitUnits_strictMono.injective (by rw [bitUnits_val]; exact_mod_cast hzero.symm)
      exact congrArg _ (Fin.ext hval)
    · rw [decide_eq_false (by omega), Int.natAbs_natCast]
      exact round_exact Nat.one_pos (Nat.mul_one _).symm

/-- A natural number converted and rounded back is itself (00_scope.md R17). -/
theorem rhaz_ofInt {v : Nat} (h : v ≤ 2 ^ 24) : rhaz (ofInt (v : Int)) = v := by
  obtain ⟨m, hm, hunits⟩ := ofInt_small h
  rw [hm, rhaz, rhazFin, if_neg Bool.false_ne_true, hunits]
  omega

theorem lt_trans {a b c : F} (hab : lt a b = true) (hbc : lt b c = true) : lt a c = true := by
  obtain ⟨ha, -, hab⟩ := lt_iff.1 hab
  obtain ⟨-, hc, hbc⟩ := lt_iff.1 hbc
  exact lt_iff.2 ⟨ha, hc, hab.trans hbc⟩

end F

namespace Machine

/-! ### Step 1: the frame (R181) -/

theorem frozen_iff {s : State} : frozen s = true ↔ s.variant = .freeze ∧ s.act.freeze = true := by
  rw [frozen, Bool.and_eq_true, decide_eq_true_eq]

theorem acceptFrame_of_frozen {s : State} (h : frozen s = true) : acceptFrame s = s := by
  rw [acceptFrame, if_pos h]

theorem acceptFrame_of_valid {s : State} (hfree : ¬ frozen s = true) (hvalid : frameValid s = true) :
    acceptFrame s = { s with
      curmag := Arr.fill s.curmag (s.cfg.h + 1) (fun k => Arr.get s.mag k)
      curif := Arr.fill s.curif (s.cfg.h + 1) (fun k => Arr.get s.tif k)
      synph := Arr.set s.synph 0 (F.wrap (Arr.get s.ph 0)) } := by
  rw [acceptFrame, if_neg hfree, if_pos hvalid]

theorem acceptFrame_of_invalid {s : State} (hfree : ¬ frozen s = true) (hinvalid : ¬ frameValid s = true) :
    acceptFrame s = raiseGuard .numericalInstability s := by
  rw [acceptFrame, if_neg hfree, if_neg hinvalid]

@[simp] theorem acceptFrame_cfg (s : State) : (acceptFrame s).cfg = s.cfg := by
  obtain ⟨_, _, _, _, h⟩ := acceptFrame_writes s
  rw [h]

@[simp] theorem acceptFrame_variant (s : State) : (acceptFrame s).variant = s.variant := by
  obtain ⟨_, _, _, _, h⟩ := acceptFrame_writes s
  rw [h]

@[simp] theorem acceptFrame_act (s : State) : (acceptFrame s).act = s.act := by
  obtain ⟨_, _, _, _, h⟩ := acceptFrame_writes s
  rw [h]

/-! ### Step 2: the synthesis bins (R182) -/

/-- The analysis bins below `n` that map to synthesis bin `b`, in ascending order. -/
def sourceBins (ratio : F) (b n : Nat) : List Nat :=
  (List.range n).filter fun k => decide (synthBin ratio k = (b : Int))

@[simp] theorem sourceBins_zero (ratio : F) (b : Nat) : sourceBins ratio b 0 = [] := rfl

theorem sourceBins_succ (ratio : F) (b n : Nat) : sourceBins ratio b (n + 1) =
    if synthBin ratio n = (b : Int) then sourceBins ratio b n ++ [n] else sourceBins ratio b n := by
  rw [sourceBins, List.range_succ, List.filter_append, ← sourceBins]
  split
  · next hmaps => rw [List.filter_singleton, decide_eq_true hmaps]; rfl
  · next hother => rw [List.filter_singleton, decide_eq_false hother]; exact List.append_nil _

@[simp] theorem depositBin_curmag (ratio : F) (k : Nat) (s : State) : (depositBin ratio k s).curmag = s.curmag := by
  obtain ⟨_, _, h⟩ := depositBin_writes ratio k s
  rw [h]

@[simp] theorem depositBin_curif (ratio : F) (k : Nat) (s : State) : (depositBin ratio k s).curif = s.curif := by
  obtain ⟨_, _, h⟩ := depositBin_writes ratio k s
  rw [h]

/-- An analysis bin that maps to `b` is added to it. -/
theorem depositBin_of_eq {ratio : F} {k b : Nat} {s : State} (hb : b ≤ s.cfg.h) (h : synthBin ratio k = (b : Int)) :
    depositBin ratio k s = { s with
      smag := Arr.set s.smag b (F.add (Arr.get s.smag b) (Arr.get s.curmag k))
      sif := Arr.set s.sif b (Arr.get s.curif k) } := by
  rw [depositBin, h]
  exact if_pos ⟨by omega, by omega⟩

/-- An analysis bin that maps to no synthesis bin is dropped. -/
theorem depositBin_of_outside {ratio : F} {k : Nat} {s : State}
    (h : ¬ (0 ≤ synthBin ratio k ∧ synthBin ratio k ≤ (s.cfg.h : Int))) : depositBin ratio k s = s := if_neg h

/-- An analysis bin that maps elsewhere leaves `b` as it is. -/
theorem depositBin_of_ne {ratio : F} {k b : Nat} (s : State) (h : synthBin ratio k ≠ (b : Int)) :
    Arr.get (depositBin ratio k s).smag b = Arr.get s.smag b
    ∧ Arr.get (depositBin ratio k s).sif b = Arr.get s.sif b := by
  by_cases hin : 0 ≤ synthBin ratio k ∧ synthBin ratio k ≤ (s.cfg.h : Int)
  · obtain ⟨hlow, hhigh⟩ := hin
    obtain ⟨c, hc⟩ := Int.eq_ofNat_of_zero_le hlow
    have hne : b ≠ c := fun heq => h (hc.trans (congrArg _ heq.symm))
    rw [depositBin_of_eq (Int.ofNat_le.1 (hc ▸ hhigh)) hc]
    exact ⟨Arr.get_set_ne _ _ hne, Arr.get_set_ne _ _ hne⟩
  · rw [depositBin_of_outside hin]
    exact ⟨rfl, rfl⟩

/-- The first `n` analysis bins deposited one after the other. -/
def depositBelow (ratio : F) (n : Nat) (s : State) : State := forRange n (depositBin ratio) s

theorem depositBelow_succ (ratio : F) (n : Nat) (s : State) :
    depositBelow ratio (n + 1) s = depositBin ratio n (depositBelow ratio n s) := forRange_succ _ _ _

theorem mapBins_eq (s : State) :
    mapBins s = clearSynthDc (depositBelow (pitchRatio s) (s.cfg.h + 1) (clearSynthBins s)) := rfl

@[simp] theorem depositBelow_cfg (ratio : F) (n : Nat) (s : State) : (depositBelow ratio n s).cfg = s.cfg :=
  forRange_fixed State.cfg fun _ _ _ => depositBin_cfg _ _ _

@[simp] theorem depositBelow_curmag (ratio : F) (n : Nat) (s : State) : (depositBelow ratio n s).curmag = s.curmag :=
  forRange_fixed State.curmag fun _ _ _ => depositBin_curmag _ _ _

@[simp] theorem depositBelow_curif (ratio : F) (n : Nat) (s : State) : (depositBelow ratio n s).curif = s.curif :=
  forRange_fixed State.curif fun _ _ _ => depositBin_curif _ _ _

/-- A synthesis bin adds up the magnitudes of its sources and keeps the frequency of the last of them. -/
theorem get_depositBelow (ratio : F) (n : Nat) {s : State} {b : Nat} (hb : b ≤ s.cfg.h) :
    Arr.get (depositBelow ratio n s).smag b
      = (sourceBins ratio b n).foldl (fun m k => F.add m (Arr.get s.curmag k)) (Arr.get s.smag b)
    ∧ Arr.get (depositBelow ratio n s).sif b
      = ((sourceBins ratio b n).getLast?.map (Arr.get s.curif)).getD (Arr.get s.sif b) := by
  induction n with
  | zero => exact ⟨rfl, rfl⟩
  | succ n ih =>
    obtain ⟨hmag, hif⟩ := ih
    rw [depositBelow_succ, sourceBins_succ]
    split
    · next hmaps =>
      rw [depositBin_of_eq (by rwa [depositBelow_cfg]) hmaps]
      constructor
      · rw [Arr.get_set_self, hmag, depositBelow_curmag, List.foldl_append]
        rfl
      · rw [Arr.get_set_self, depositBelow_curif, List.getLast?_concat]
        rfl
    · next hother =>
      obtain ⟨hmagKept, hifKept⟩ := depositBin_of_ne (depositBelow ratio n s) hother
      exact ⟨hmagKept.trans hmag, hifKept.trans hif⟩

theorem get_clearSynthBins {s : State} {b : Nat} (hb : b ≤ s.cfg.h) :
    Arr.get (clearSynthBins s).smag b = .zero ∧ Arr.get (clearSynthBins s).sif b = .zero := by
  have hin : b < s.cfg.h + 1 := Nat.lt_succ_of_le hb
  exact ⟨(Arr.get_fill _ _ _ _).trans (if_pos hin), (Arr.get_fill _ _ _ _).trans (if_pos hin)⟩

@[simp] theorem clearSynthBins_curmag (s : State) : (clearSynthBins s).curmag = s.curmag := rfl
@[simp] theorem clearSynthBins_curif (s : State) : (clearSynthBins s).curif = s.curif := rfl
@[simp] theorem clearSynthDc_smag (s : State) : (clearSynthDc s).smag = s.smag := rfl
@[simp] theorem clearSynthDc_sif (s : State) : (clearSynthDc s).sif = Arr.set s.sif 0 .zero := rfl

@[simp] theorem mapBins_cfg (s : State) : (mapBins s).cfg = s.cfg := by
  obtain ⟨_, _, h⟩ := mapBins_writes s
  rw [h]

@[simp] theorem mapBins_variant (s : State) : (mapBins s).variant = s.variant := by
  obtain ⟨_, _, h⟩ := mapBins_writes s
  rw [h]

@[simp] theorem mapBins_act (s : State) : (mapBins s).act = s.act := by
  obtain ⟨_, _, h⟩ := mapBins_writes s
  rw [h]

theorem get_mapBins_smag {s : State} {b : Nat} (hb : b ≤ s.cfg.h) : Arr.get (mapBins s).smag b =
    (sourceBins (pitchRatio s) b (s.cfg.h + 1)).foldl (fun m k => F.add m (Arr.get s.curmag k)) .zero := by
  obtain ⟨hclear, -⟩ := get_clearSynthBins hb
  obtain ⟨hmag, -⟩ := get_depositBelow (pitchRatio s) (s.cfg.h + 1) (s := clearSynthBins s) hb
  rw [mapBins_eq, clearSynthDc_smag, hmag, hclear, clearSynthBins_curmag]

theorem get_mapBins_sif {s : State} {b : Nat} (hb : b ≤ s.cfg.h) : Arr.get (mapBins s).sif b = if b = 0 then .zero
    else ((sourceBins (pitchRatio s) b (s.cfg.h + 1)).getLast?.map (Arr.get s.curif)).getD .zero := by
  obtain ⟨-, hclear⟩ := get_clearSynthBins hb
  obtain ⟨-, hif⟩ := get_depositBelow (pitchRatio s) (s.cfg.h + 1) (s := clearSynthBins s) hb
  rw [mapBins_eq, clearSynthDc_sif, Arr.get_set, hif, hclear, clearSynthBins_curif]

/-! ### Step 2 at a ratio of 1.0 (R185) -/

theorem pitchRatio_of_ne {s : State} (h : s.variant ≠ .pitchShift) : pitchRatio s = .one := if_neg h

/-- At ratio 1.0 every analysis bin maps to itself. -/
theorem synthBin_one {k : Nat} (hk : k ≤ 2 ^ 24) : synthBin .one k = k := by
  obtain ⟨m, hm, -⟩ := F.ofInt_small hk
  rw [synthBin, F.mul_one_of_isFinite (by rw [hm]; rfl), F.rhaz_ofInt hk]

theorem sourceBins_one (b : Nat) {n : Nat} (hn : n ≤ 2 ^ 24) :
    sourceBins .one b n = if b < n then [b] else [] := by
  induction n with
  | zero => rfl
  | succ n ih =>
    rw [sourceBins_succ, synthBin_one (by omega), ih (by omega)]
    rcases Nat.lt_trichotomy b n with hlt | rfl | hgt
    · rw [if_neg (by omega), if_pos hlt, if_pos (by omega)]
    · rw [if_pos rfl, if_neg (Nat.lt_irrefl b), if_pos (Nat.lt_succ_self b)]
      rfl
    · rw [if_neg (by omega), if_neg (by omega), if_neg (by omega)]

/-- Outside PitchShift the held spectrum is copied but for `SIF[0]`: what is added to +0 has its sign bit clear. -/
theorem get_mapBins_identity {s : State} (h : s.Running) (hratio : s.variant ≠ .pitchShift) {k : Nat}
    (hk : k ≤ s.cfg.h) : Arr.get (mapBins s).smag k = Arr.get s.curmag k
      ∧ (k ≠ 0 → Arr.get (mapBins s).sif k = Arr.get s.curif k) := by
  have hsize : s.cfg.h + 1 ≤ 2 ^ 24 := by
    have := h.build.h_succ_lt_n
    have := h.build.nHigh
    omega
  rw [get_mapBins_smag hk, get_mapBins_sif hk, pitchRatio_of_ne hratio, sourceBins_one k hsize,
    if_pos (Nat.lt_succ_of_le hk)]
  exact ⟨F.zero_add_of_isNonneg (h.streaming.curmag k hk).2, fun hne => if_neg hne⟩

theorem get_mapBins_sif_zero (s : State) : Arr.get (mapBins s).sif 0 = .zero := by
  rw [get_mapBins_sif (Nat.zero_le _), if_pos rfl]

/-! ### Step 3: the gate (R183) -/

/-- One pass of the search for the peak. -/
def raisePeak (smag : Arr) (k : Nat) (p : F) : F := if F.lt p (Arr.get smag k) then Arr.get smag k else p

theorem peak_eq (h : Nat) (smag : Arr) : peak h smag = forRange (h + 1) (raisePeak smag) .zero := rfl

/-- What the search holds after the bins below `n`. -/
def PeakBelow (smag : Arr) (n : Nat) (p : F) : Prop :=
  (p = .zero ∨ ∃ k, k < n ∧ Arr.get smag k = p) ∧ F.le .zero p = true ∧ ∀ k, k < n → F.lt p (Arr.get smag k) = false

/-- The search ends at a largest magnitude: what it has passed stays below what it moves on to. -/
theorem peak_isPeak (h : Nat) (smag : Arr) : IsPeak h (Arr.get smag) (peak h smag) := by
  have hsearch : PeakBelow smag (h + 1) (peak h smag) := by
    rw [peak_eq]
    refine forRange_induction (P := PeakBelow smag) ⟨.inl rfl, by decide, fun k hk => absurd hk (Nat.not_lt_zero k)⟩ ?_
    rintro n p - ⟨hfound, hlow, hhigh⟩
    unfold raisePeak
    split
    · next hlarger =>
      refine ⟨.inr ⟨n, n.lt_succ_self, rfl⟩, F.le_trans hlow (F.le_of_lt hlarger), fun k hk => ?_⟩
      rcases Nat.lt_succ_iff_lt_or_eq.1 hk with hlt | rfl
      · exact Bool.eq_false_iff.2 fun habove => Bool.eq_false_iff.1 (hhigh k hlt) (F.lt_trans hlarger habove)
      · exact Bool.eq_false_iff.2 fun hself => absurd (F.lt_iff.1 hself).2.2 (Int.lt_irrefl _)
    · next hnot =>
      refine ⟨hfound.imp_right fun ⟨k, hk, heq⟩ => ⟨k, Nat.lt_succ_of_lt hk, heq⟩, hlow, fun k hk => ?_⟩
      rcases Nat.lt_succ_iff_lt_or_eq.1 hk with hlt | rfl
      · exact hhigh k hlt
      · exact Bool.eq_false_iff.2 hnot
  obtain ⟨hfound, hlow, hhigh⟩ := hsearch
  exact ⟨hfound.imp_right fun ⟨k, hk, heq⟩ => ⟨k, Nat.le_of_lt_succ hk, heq⟩, hlow,
    fun k hk => hhigh k (Nat.lt_succ_of_le hk)⟩

/-- A peak is a peak of the bins 0..h alone. -/
theorem IsPeak.congr {h : Nat} {mags mags' : Nat → F} {v : F} (hp : IsPeak h mags v)
    (heq : ∀ k, k ≤ h → mags k = mags' k) : IsPeak h mags' v := by
  obtain ⟨hfound, hlow, hhigh⟩ := hp
  exact ⟨hfound.imp_right fun ⟨k, hk, hv⟩ => ⟨k, hk, heq k hk ▸ hv⟩, hlow, fun k hk => heq k hk ▸ hhigh k hk⟩

/-- One pass of the gate: zero bin `k` if it lies below the threshold. -/
def gateBin (thr : F) (k : Nat) (a : Arr) : Arr := if F.lt (Arr.get a k) thr then Arr.set a k F.zero else a

theorem get_gateBin (thr : F) (k j : Nat) (a : Arr) : Arr.get (gateBin thr k a) j =
    if j = k ∧ F.lt (Arr.get a j) thr = true then .zero else Arr.get a j := by
  unfold gateBin
  by_cases hj : j = k
  · subst hj
    by_cases hlow : F.lt (Arr.get a j) thr = true
    · rw [if_pos hlow, if_pos ⟨rfl, hlow⟩, Arr.get_set_self]
    · rw [if_neg hlow, if_neg fun h : j = j ∧ _ => hlow h.2]
  · rw [if_neg fun h : j = k ∧ _ => hj h.1]
    split
    · exact Arr.get_set_ne _ _ hj
    · rfl

/-- The passes `lo`, `lo + 1`, … of the gate each meet their bin as it was before the first. -/
theorem get_gateBin_run (thr : F) (lo n j : Nat) (a : Arr) :
    Arr.get (forRange n (fun i => gateBin thr (lo + i)) a) j =
      if lo ≤ j ∧ j < lo + n ∧ F.lt (Arr.get a j) thr = true then .zero else Arr.get a j := by
  induction n with
  | zero => rw [forRange_zero, if_neg fun h => absurd h.2.1 (Nat.not_lt.2 h.1)]
  | succ n ih =>
    rw [forRange_succ, get_gateBin]
    by_cases hj : j = lo + n
    · have hkept : Arr.get (forRange n (fun i => gateBin thr (lo + i)) a) j = Arr.get a j :=
        ih.trans (if_neg fun h => absurd h.2.1 (by omega))
      rw [hkept]
      exact if_congr (by subst hj; simp) rfl rfl
    · have hrange : j < lo + (n + 1) ↔ j < lo + n := by omega
      rw [if_neg fun h => hj h.1, ih]
      exact if_congr (and_congr_right fun _ => and_congr_left' hrange.symm) rfl rfl

theorem gateBins_of_ne {s : State} (h : s.variant ≠ .gate) : gateBins s = s := by
  rw [gateBins, if_neg h]

@[simp] theorem gateBins_cfg (s : State) : (gateBins s).cfg = s.cfg := by
  obtain ⟨_, h⟩ := gateBins_writes s
  rw [h]

@[simp] theorem gateBins_variant (s : State) : (gateBins s).variant = s.variant := by
  obtain ⟨_, h⟩ := gateBins_writes s
  rw [h]

@[simp] theorem gateBins_act (s : State) : (gateBins s).act = s.act := by
  obtain ⟨_, h⟩ := gateBins_writes s
  rw [h]

theorem get_gateBins_smag {s : State} (h : s.variant = .gate) (k : Nat) : Arr.get (gateBins s).smag k =
    if s.act.glo ≤ k ∧ k ≤ s.act.ghi ∧ F.lt (Arr.get s.smag k) (F.mul s.act.gthr (peak s.cfg.h s.smag)) = true
    then .zero else Arr.get s.smag k := by
  rw [gateBins, if_pos h]
  exact (get_gateBin_run _ s.act.glo (s.act.ghi + 1 - s.act.glo) k s.smag).trans
    (if_congr (and_congr_right fun _ => and_congr_left' (by omega)) rfl rfl)

/-! ### The four steps together (R180) -/

@[simp] theorem setHop_smag (s : State) : (setHop s).smag = s.smag := rfl
@[simp] theorem setHop_sif (s : State) : (setHop s).sif = s.sif := rfl
@[simp] theorem setHop_hs (s : State) :
    (setHop s).hs = if s.variant = .stretch then stretchHop s.cfg s.act.stretch else s.cfg.ha := rfl

/-- Steps 2 to 4 leave what step 1 did to the held frame and to the counters. -/
theorem bodyModify_after_acceptFrame (s : State) : ∃ smag sif hs, bodyModify s =
    { acceptFrame s with smag := smag, sif := sif, hs := hs } := by
  obtain ⟨_, _, hmap⟩ := mapBins_writes (acceptFrame s)
  obtain ⟨_, hgate⟩ := gateBins_writes (mapBins (acceptFrame s))
  rw [bodyModify, hgate, hmap]
  exact ⟨_, _, _, rfl⟩

@[simp] theorem bodyModify_curmag (s : State) : (bodyModify s).curmag = (acceptFrame s).curmag := by
  obtain ⟨_, _, _, h⟩ := bodyModify_after_acceptFrame s
  rw [h]

@[simp] theorem bodyModify_curif (s : State) : (bodyModify s).curif = (acceptFrame s).curif := by
  obtain ⟨_, _, _, h⟩ := bodyModify_after_acceptFrame s
  rw [h]

@[simp] theorem bodyModify_synph (s : State) : (bodyModify s).synph = (acceptFrame s).synph := by
  obtain ⟨_, _, _, h⟩ := bodyModify_after_acceptFrame s
  rw [h]

@[simp] theorem bodyModify_diagNi (s : State) : (bodyModify s).diagNi = (acceptFrame s).diagNi := by
  obtain ⟨_, _, _, h⟩ := bodyModify_after_acceptFrame s
  rw [h]

@[simp] theorem bodyModify_sif (s : State) : (bodyModify s).sif = (mapBins (acceptFrame s)).sif := by
  obtain ⟨_, h⟩ := gateBins_writes (mapBins (acceptFrame s))
  rw [bodyModify, setHop_sif, h]

theorem bodyModify_smag_of_ne {s : State} (h : s.variant ≠ .gate) :
    (bodyModify s).smag = (mapBins (acceptFrame s)).smag := by
  rw [bodyModify, setHop_smag, gateBins_of_ne (by rwa [mapBins_variant, acceptFrame_variant])]

theorem get_bodyModify_smag_of_gate {s : State} (h : s.variant = .gate) (k : Nat) :
    Arr.get (bodyModify s).smag k =
      if s.act.glo ≤ k ∧ k ≤ s.act.ghi ∧ F.lt (Arr.get (mapBins (acceptFrame s)).smag k)
        (F.mul s.act.gthr (peak s.cfg.h (mapBins (acceptFrame s)).smag)) = true
      then .zero else Arr.get (mapBins (acceptFrame s)).smag k := by
  have hvariant : (mapBins (acceptFrame s)).variant = s.variant := by rw [mapBins_variant, acceptFrame_variant]
  have hact : (mapBins (acceptFrame s)).act = s.act := by rw [mapBins_act, acceptFrame_act]
  have hcfg : (mapBins (acceptFrame s)).cfg = s.cfg := by rw [mapBins_cfg, acceptFrame_cfg]
  rw [bodyModify, setHop_smag]
  generalize mapBins (acceptFrame s) = u at hvariant hact hcfg ⊢
  rw [get_gateBins_smag (hvariant.trans h), hact, hcfg]

theorem bodyModify_hs (s : State) : (bodyModify s).hs =
    if s.variant = .stretch then stretchHop s.cfg s.act.stretch else s.cfg.ha := by
  rw [bodyModify, setHop_hs, gateBins_variant, gateBins_cfg, gateBins_act, mapBins_variant, mapBins_cfg, mapBins_act,
    acceptFrame_variant, acceptFrame_cfg, acceptFrame_act]

/-- `MODIFY` on a prepared engine (R180). -/
theorem exec_modify {s : State} (hwarm : s.lstate ≠ .cold) : exec .modify s = .next (finish .ok (bodyModify s)) :=
  exec_accepted rfl hwarm rfl

/-- The held frame and the counter of rejected frames after `MODIFY` are those of step 1 (R181). -/
theorem modified_heldFrame {s u : State} (h : acceptFrame s = u) :
    (finish .ok (bodyModify s)).curmag = u.curmag ∧ (finish .ok (bodyModify s)).curif = u.curif
    ∧ (finish .ok (bodyModify s)).synph = u.synph ∧ (finish .ok (bodyModify s)).diagNi = u.diagNi := by
  rw [finish_curmag, finish_curif, finish_synph, finish_diagNi, bodyModify_curmag, bodyModify_curif, bodyModify_synph,
    bodyModify_diagNi, h]
  exact ⟨rfl, rfl, rfl, rfl⟩

end Machine

open Machine

/-- Settles O34: the held frame is what step 1 leaves, in its three cases. -/
theorem modifyTakesOrHoldsFrame : Obligations.ModifyTakesOrHoldsFrame := by
  intro s hwarm valid iced
  have hvalid : frameValid s = true ↔ valid := frameValid_iff
  have hiced : frozen s = true ↔ iced := frozen_iff
  refine ⟨_, exec_modify hwarm, fun hfree hfinite => ?accepted, fun hfrozen => ?held, fun hfree hother => ?rejected,
    ?frame⟩
  case accepted =>
    obtain ⟨hmag, hif, hsynph, hcount⟩ :=
      modified_heldFrame (acceptFrame_of_valid (mt hiced.1 hfree) (hvalid.2 hfinite))
    rw [hmag, hif, hsynph, hcount]
    refine ⟨fun k hk => ?_, fun k hk => ?_, Arr.get_set_self _ _ _, fun k hk => Arr.get_set_ne _ _ hk, rfl⟩
    · rw [Arr.get_fill, Arr.get_fill, if_pos (Nat.lt_succ_of_le hk), if_pos (Nat.lt_succ_of_le hk)]
      exact ⟨rfl, rfl⟩
    · have hbeyond : ¬ k < s.cfg.h + 1 := by omega
      rw [Arr.get_fill, Arr.get_fill, if_neg hbeyond, if_neg hbeyond]
      exact ⟨rfl, rfl⟩
  case held => exact modified_heldFrame (acceptFrame_of_frozen (hiced.2 hfrozen))
  case rejected => exact modified_heldFrame (acceptFrame_of_invalid (mt hiced.1 hfree) (mt hvalid.1 hother))
  case frame =>
    obtain ⟨_, _, _, _, _, _, _, h⟩ := bodyModify_writes s
    rw [h, finish_ok]

/-- Settles O35: outside Gate the synthesis side is what the deposits leave. -/
theorem modifyRemapsBins : Obligations.ModifyRemapsBins := by
  intro s hwarm hgate
  refine ⟨_, exec_modify hwarm, fun b hb => ?_⟩
  have hb' : b ≤ (acceptFrame s).cfg.h := by rwa [acceptFrame_cfg]
  have hratio : pitchRatio (acceptFrame s) = if s.variant = .pitchShift then s.act.pitch else .one := by
    rw [pitchRatio, acceptFrame_variant, acceptFrame_act]
  rw [finish_smag, finish_sif, finish_curmag, finish_curif, bodyModify_smag_of_ne hgate, bodyModify_sif,
    bodyModify_curmag, bodyModify_curif, get_mapBins_smag hb', get_mapBins_sif hb', hratio, acceptFrame_cfg]
  exact ⟨rfl, rfl⟩

/-- Settles O36: at ratio 1.0 every bin has itself as its one source. -/
theorem modifyPassesSpectrumThrough : Obligations.ModifyPassesSpectrumThrough := by
  intro s hinv hwarm hgate hpitch
  have hrun : (acceptFrame s).Running := running_acceptFrame ⟨hinv, hwarm⟩
  refine ⟨_, exec_modify hwarm, ?edge, fun k hk => ?bins⟩
  case edge => rw [finish_sif, bodyModify_sif, get_mapBins_sif_zero]
  case bins =>
    rw [finish_smag, finish_sif, finish_curmag, finish_curif, bodyModify_smag_of_ne hgate, bodyModify_sif,
      bodyModify_curmag, bodyModify_curif]
    exact get_mapBins_identity hrun (by rwa [acceptFrame_variant]) (by rwa [acceptFrame_cfg])

/-- Settles O37: the gate meets a copy of the held spectrum, so its peak and its comparisons are those of `CURMAG`. -/
theorem modifyGatesQuietBins : Obligations.ModifyGatesQuietBins := by
  intro s hinv hwarm hgate
  have hrun : (acceptFrame s).Running := running_acceptFrame ⟨hinv, hwarm⟩
  have hcopy : ∀ k, k ≤ s.cfg.h → Arr.get (mapBins (acceptFrame s)).smag k = Arr.get (acceptFrame s).curmag k
      ∧ (k ≠ 0 → Arr.get (mapBins (acceptFrame s)).sif k = Arr.get (acceptFrame s).curif k) := fun k hk =>
    get_mapBins_identity hrun (by rw [acceptFrame_variant, hgate]; decide) (by rwa [acceptFrame_cfg])
  refine ⟨_, peak s.cfg.h (mapBins (acceptFrame s)).smag, exec_modify hwarm, ?peak, ?edge, fun k hk => ?bins⟩
  case peak =>
    rw [finish_curmag, bodyModify_curmag]
    exact (peak_isPeak _ _).congr fun k hk => (hcopy k hk).1
  case edge => rw [finish_sif, bodyModify_sif, get_mapBins_sif_zero]
  case bins =>
    obtain ⟨hmag, hif⟩ := hcopy k hk
    rw [finish_smag, finish_sif, finish_curmag, finish_curif, get_bodyModify_smag_of_gate hgate, bodyModify_sif,
      bodyModify_curmag, bodyModify_curif, hmag]
    exact ⟨rfl, hif⟩

/-- Settles O38: the hop is what step 4 sets, and the clamp of R186 keeps it positive. -/
theorem modifySetsHop : Obligations.ModifySetsHop := by
  intro s hwf hwarm
  have hc := Cfg.isBuild hwf
  refine ⟨_, exec_modify hwarm, ?_⟩
  rw [finish_hs, bodyModify_hs]
  by_cases hstretch : s.variant = .stretch
  · rw [if_pos hstretch]
    obtain ⟨hlow, hhigh⟩ := stretchHop_range hc s.act.stretch
    refine ⟨hlow, hhigh, fun _ => ?_, fun hne => absurd hstretch hne⟩
    rw [stretchHop] at hlow ⊢
    exact Int.toNat_of_nonneg (by omega)
  · rw [if_neg hstretch]
    exact ⟨hc.haLow, hc.ha_le_hsMax, fun h => absurd h hstretch, fun _ => rfl⟩

end Sys2Proof
end

section
/-! SUPPORT. The phase accumulator and the rotator (45_rotator.md R200 to R205): the passes of both loops bin by bin, the
draws of the smear generator, and the size of what the rotator writes. -/

namespace Sys2Proof

namespace F

/-! ### Exact conversions -/

/-- An integer whose magnitude is a datum is converted exactly. -/
theorem ofInt_signed_exact {i : Int} {m : Mag} (h : m.units = i.natAbs * 2 ^ 149) :
    ofInt i = .fin (decide (i < 0)) m :=
  round_exact Nat.one_pos (by rw [h, Nat.mul_one])

theorem finUnits_decide {i v : Int} {m : Mag} (h : (m.units : Int) = |i| * v) :
    finUnits (decide (i < 0)) m = i * v := by
  rw [finUnits, h]
  by_cases hneg : i < 0
  · rw [if_pos (decide_eq_true hneg), abs_of_neg hneg, Int.neg_mul, Int.neg_neg]
  · rw [if_neg (by simpa using hneg), abs_of_nonneg (by omega)]

theorem twoPowNeg23_eq : ∃ m : Mag, twoPowNeg23 = .fin false m ∧ m.units = 2 ^ 126 :=
  ⟨⟨0x34000000, by decide⟩, by decide +kernel, by decide +kernel⟩

/-- An integer of at most 24 bits times 2^-23 is exact. -/
theorem ofInt_mul_twoPowNeg23 {i : Int} (h : i.natAbs ≤ 2 ^ 24) :
    (mul (ofInt i) twoPowNeg23).isFinite = true ∧ (mul (ofInt i) twoPowNeg23).rank = i * 2 ^ 126 := by
  obtain ⟨p, hp⟩ := exists_units (t := i.natAbs) (k := 149) h (by omega)
  obtain ⟨q, hq⟩ := exists_units (t := i.natAbs) (k := 126) h (by omega)
  obtain ⟨scale, hscale, hunits⟩ := twoPowNeg23_eq
  have hexact : p.units * scale.units = q.units * 2 ^ 149 := by
    rw [hp, hq, hunits]
    ring
  rw [ofInt_signed_exact hp, hscale, mul_fin, Bool.xor_false, round_exact (by positivity) hexact]
  refine ⟨rfl, finUnits_decide ?_⟩
  rw [hq, Int.abs_eq_natAbs]
  norm_cast

/-! ### Magnitudes -/

theorem abs_neg (a : F) : abs (neg a) = abs a := by
  cases a <;> rfl

theorem AtMost.abs_le {a : F} {m : Mag} (h : AtMost m a) : F.le (F.abs a) (.fin false m) = true := by
  obtain ⟨hfin, hle⟩ := h
  rw [le_iff_rank (by rwa [isFinite_abs]) rfl, rank_abs hfin, rank_fin_false]
  exact hle

end F

namespace Machine

/-! ### The smear generator (R204) -/

/-- A draw is a finite datum, its 24-bit integer counting steps of 2^-23. -/
theorem smearUnit_exact (x : Word) :
    ∃ i : Int, -2 ^ 23 ≤ i ∧ i < 2 ^ 23 ∧ (smearUnit x).isFinite = true ∧ (smearUnit x).rank = i * 2 ^ 126 := by
  have hlow := BitVec.le_toInt (x.extractLsb' 8 24)
  have hhigh := BitVec.toInt_lt (x := x.extractLsb' 8 24)
  exact ⟨_, hlow, hhigh, F.ofInt_mul_twoPowNeg23 (by omega)⟩

/-- A draw is at most 1 in magnitude. -/
theorem smearUnit_atMost (x : Word) : F.AtMost NumRef.oneMag (smearUnit x) := by
  obtain ⟨i, hlow, hhigh, hfin, hrank⟩ := smearUnit_exact x
  refine ⟨hfin, ?_⟩
  rw [hrank, F.units_oneMag, abs_le]
  push_cast
  omega

/-! ### Loops of writes to one memory -/

/-- A loop that writes each element of a span once, from elements it has not reached yet, leaves in each what it would
have written into the memory as it was. -/
theorem Arr.get_forSpan_set {lo hi : Nat} {a : Arr} {f : Nat → Arr → F}
    (hf : ∀ k b, lo ≤ k → (∀ j, j < lo ∨ k ≤ j → Arr.get b j = Arr.get a j) → f k b = f k a) (j : Nat) :
    Arr.get (forSpan lo hi (fun k b => Arr.set b k (f k b)) a) j = if lo ≤ j ∧ j ≤ hi then f j a else Arr.get a j := by
  have hrun : ∀ m j, Arr.get (forRange m (fun i b => Arr.set b (lo + i) (f (lo + i) b)) a) j =
      if lo ≤ j ∧ j < lo + m then f j a else Arr.get a j := by
    intro m
    induction m with
    | zero => exact fun j => (if_neg (by omega)).symm
    | succ m ih =>
      intro j
      rw [forRange_succ, Arr.get_set, hf (lo + m) _ (Nat.le_add_right lo m) fun i hi => (ih i).trans (if_neg (by omega))]
      by_cases hj : j = lo + m
      · rw [if_pos hj, if_pos (by omega), hj]
      · rw [if_neg hj, ih]
        exact if_congr (by omega) rfl rfl
  exact (hrun _ j).trans (if_congr (by omega) rfl rfl)

/-! ### `ACCUM` (R200) -/

theorem get_bodyAccum_synph (s : State) (k : Nat) : Arr.get (bodyAccum s).synph k =
    if 1 ≤ k ∧ k ≤ s.cfg.h then F.wrap (F.add (Arr.get s.synph k) (advance s k)) else Arr.get s.synph k :=
  Arr.get_forSpan_set (f := fun k a => F.wrap (F.add (Arr.get a k) (advance s k)))
    (fun k b _ hsame => by rw [hsame k (.inr le_rfl)]) k

/-! ### `HERM`: the phases (R203) -/

/-- The bins whose phase is smeared. -/
abbrev Smeared (s : State) (k : Nat) : Prop := s.variant = .smear ∧ 1 ≤ k ∧ k < s.cfg.h

/-- `PHI[k]` in terms of the state before the command: bin `k` takes the `k`-th draw. -/
def chosenPhase (s : State) (k : Nat) : F :=
  if Smeared s k then smearPhase s.act.smear (Arr.get s.synph k) (xorshift^[k] s.prng) else Arr.get s.synph k

/-- The generator when the bins below `k` have their phases: one step for each smeared bin. -/
def generatorBefore (s : State) (k : Nat) : Word :=
  if s.variant = .smear then xorshift^[min (k - 1) (s.cfg.h - 1)] s.prng else s.prng

theorem generatorBefore_zero (s : State) : generatorBefore s 0 = s.prng := by
  rw [generatorBefore, Nat.zero_sub, Nat.zero_min, Function.iterate_zero, id, ite_self]

/-- After the last bin the generator has stepped once for each bin from 1 to H-1. -/
theorem generatorBefore_end (s : State) : generatorBefore s (s.cfg.h + 1) =
    if s.variant = .smear then xorshift^[s.cfg.h - 1] s.prng else s.prng := by
  rw [generatorBefore, Nat.add_sub_cancel, Nat.min_eq_right (Nat.sub_le _ _)]

/-- At a smeared bin the generator steps to that bin's draw. -/
theorem generatorBefore_succ_of_smeared {s : State} {k : Nat} (h : Smeared s k) :
    generatorBefore s (k + 1) = xorshift^[k] s.prng ∧ xorshift (generatorBefore s k) = xorshift^[k] s.prng := by
  obtain ⟨hsmear, hlow, hhigh⟩ := h
  have hbefore : (min (k - 1) (s.cfg.h - 1)).succ = k := by omega
  have hafter : min (k + 1 - 1) (s.cfg.h - 1) = k := by omega
  rw [generatorBefore, generatorBefore, if_pos hsmear, if_pos hsmear, hafter,
    ← Function.iterate_succ_apply' xorshift, hbefore]
  exact ⟨rfl, rfl⟩

/-- At any other bin it rests. -/
theorem generatorBefore_succ_of_not {s : State} {k : Nat} (h : ¬ Smeared s k) :
    generatorBefore s (k + 1) = generatorBefore s k := by
  by_cases hsmear : s.variant = .smear
  · have hout : ¬ (1 ≤ k ∧ k < s.cfg.h) := fun hin => h ⟨hsmear, hin⟩
    have hdraws : min (k + 1 - 1) (s.cfg.h - 1) = min (k - 1) (s.cfg.h - 1) := by omega
    rw [generatorBefore, generatorBefore, hdraws]
  · rw [generatorBefore, generatorBefore, if_neg hsmear, if_neg hsmear]

/-! ### `HERM`: the rotation (R203) -/

/-- The real part of bin `k`, rotated. -/
def rotatedRe (s : State) (k : Nat) : F := F.mul (Arr.get s.smag k) (s.cfg.num.fns.fcos (chosenPhase s k))

/-- The imaginary part of bin `k`, rotated. -/
def rotatedIm (s : State) (k : Nat) : F := F.mul (Arr.get s.smag k) (s.cfg.num.fns.fsin (chosenPhase s k))

/-- The state when the bins below `n` are rotated. -/
def rotatedBelow (s : State) (n : Nat) : State :=
  { s with
    prng := generatorBefore s n
    phi := Arr.fill s.phi n (chosenPhase s)
    xr := Arr.fill s.xr n (rotatedRe s)
    xi := Arr.fill s.xi n (rotatedIm s) }

theorem rotatedBelow_zero (s : State) : rotatedBelow s 0 = s := by
  rw [rotatedBelow, generatorBefore_zero]
  rfl

/-- The phase chosen in pass `k` is that of the state before the loop. -/
theorem choosePhase_rotatedBelow (s : State) (k : Nat) : choosePhase k (rotatedBelow s k) =
    { rotatedBelow s k with
      prng := generatorBefore s (k + 1), phi := Arr.set (rotatedBelow s k).phi k (chosenPhase s k) } := by
  by_cases hsmeared : Smeared s k
  · obtain ⟨hnext, hdraw⟩ := generatorBefore_succ_of_smeared hsmeared
    rw [chosenPhase, if_pos hsmeared, hnext, ← hdraw]
    exact if_pos hsmeared
  · rw [chosenPhase, if_neg hsmeared, generatorBefore_succ_of_not hsmeared]
    exact if_neg hsmeared

/-- A pass rotates its bin by the phase it has just stored. -/
theorem rotateBin_choosePhase (s : State) (k : Nat) :
    rotateBin k (choosePhase k (rotatedBelow s k)) = rotatedBelow s (k + 1) := by
  rw [choosePhase_rotatedBelow, rotateBin]
  dsimp only
  rw [Arr.get_set_self]
  rfl

theorem rotateLoop_eq (s : State) (n : Nat) :
    forRange n (fun k s => rotateBin k (choosePhase k s)) s = rotatedBelow s n := by
  induction n with
  | zero => exact (rotatedBelow_zero s).symm
  | succ n ih => rw [forRange_succ, ih, rotateBin_choosePhase]

/-! ### `HERM`: the mirrored half (R203) -/

/-- `for k = lo..hi: M[k] <- g M[n-k]`. -/
def Arr.mirror (g : F → F) (n lo hi : Nat) (a : Arr) : Arr :=
  forSpan lo hi (fun k b => Arr.set b k (g (Arr.get b (n - k)))) a

/-- The upper half is filled from elements below it, which the loop does not reach. -/
theorem Arr.get_mirror (g : F → F) {n h : Nat} (hn : n ≤ 2 * h + 1) (hi : Nat) (a : Arr) (j : Nat) :
    Arr.get (Arr.mirror g n (h + 1) hi a) j = if h + 1 ≤ j ∧ j ≤ hi then g (Arr.get a (n - j)) else Arr.get a j :=
  Arr.get_forSpan_set (f := fun k b => g (Arr.get b (n - k)))
    (fun k b _ hsame => by rw [hsame (n - k) (.inl (by omega))]) j

theorem mirrorLoop_eq (s : State) (lo hi : Nat) : forSpan lo hi mirrorBin s =
    { s with xr := Arr.mirror id s.cfg.n lo hi s.xr, xi := Arr.mirror F.neg s.cfg.n lo hi s.xi } := by
  unfold Arr.mirror forSpan
  generalize hi + 1 - lo = m
  induction m with
  | zero => rfl
  | succ m ih => rw [forRange_succ, ih]; rfl

/-! ### `HERM`: what it writes -/

/-- The imaginary part of bin `k` with the two edge bins forced real. -/
def hermIm (s : State) (k : Nat) : F := if k = 0 ∨ k = s.cfg.h then .zero else rotatedIm s k

theorem bodyHerm_eq (s : State) : bodyHerm s =
    { rotatedBelow s (s.cfg.h + 1) with
      xr := Arr.mirror id s.cfg.n (s.cfg.h + 1) (s.cfg.n - 1) (rotatedBelow s (s.cfg.h + 1)).xr
      xi := Arr.mirror F.neg s.cfg.n (s.cfg.h + 1) (s.cfg.n - 1) (forceReal (rotatedBelow s (s.cfg.h + 1))).xi } := by
  unfold bodyHerm
  dsimp only
  rw [rotateLoop_eq, mirrorLoop_eq]
  rfl

theorem get_bodyHerm_phi (s : State) (k : Nat) : Arr.get (bodyHerm s).phi k =
    if k < s.cfg.h + 1 then chosenPhase s k else Arr.get s.phi k := by
  rw [bodyHerm_eq]
  exact Arr.get_fill _ _ _ _

theorem bodyHerm_prng (s : State) : (bodyHerm s).prng =
    if s.variant = .smear then xorshift^[s.cfg.h - 1] s.prng else s.prng := by
  rw [bodyHerm_eq]
  exact generatorBefore_end s

/-- Bins 0 to H as rotated, the mirror image above them, and nothing past the workspace. -/
theorem get_bodyHerm_xr {s : State} (hc : s.cfg.IsBuild) (k : Nat) : Arr.get (bodyHerm s).xr k =
    if k ≤ s.cfg.h then rotatedRe s k else if k < s.cfg.n then rotatedRe s (s.cfg.n - k) else Arr.get s.xr k := by
  have hsize := hc.two_h
  have hfill : ∀ j, Arr.get (rotatedBelow s (s.cfg.h + 1)).xr j =
      if j < s.cfg.h + 1 then rotatedRe s j else Arr.get s.xr j := fun j => Arr.get_fill _ _ _ _
  rw [bodyHerm_eq, Arr.get_mirror id (by omega), id, hfill, hfill]
  rcases Nat.lt_or_ge s.cfg.h k with hhigh | hlow
  · rw [if_neg (show ¬ k ≤ s.cfg.h by omega), if_pos (show s.cfg.n - k < s.cfg.h + 1 by omega),
      if_neg (show ¬ k < s.cfg.h + 1 by omega)]
    exact if_congr (by omega) rfl rfl
  · rw [if_neg (by omega), if_pos (Nat.lt_succ_of_le hlow), if_pos hlow]

/-- The elements of `XI` that the mirror loop meets. -/
theorem get_forceReal_rotatedBelow (s : State) (j : Nat) :
    Arr.get (forceReal (rotatedBelow s (s.cfg.h + 1))).xi j = if j < s.cfg.h + 1 then hermIm s j else Arr.get s.xi j := by
  have hfill : Arr.get (rotatedBelow s (s.cfg.h + 1)).xi j =
      if j < s.cfg.h + 1 then rotatedIm s j else Arr.get s.xi j := Arr.get_fill _ _ _ _
  have hforce := get_bodyZim_xi (rotatedBelow s (s.cfg.h + 1)) j
  rw [hfill] at hforce
  refine hforce.trans ?_
  show (if j = 0 ∨ j = s.cfg.h then F.zero else _) = _
  rw [hermIm]
  by_cases hedge : j = 0 ∨ j = s.cfg.h
  · rw [if_pos hedge, if_pos hedge, if_pos (by omega)]
  · rw [if_neg hedge, if_neg hedge]

theorem get_bodyHerm_xi {s : State} (hc : s.cfg.IsBuild) (k : Nat) : Arr.get (bodyHerm s).xi k =
    if k ≤ s.cfg.h then hermIm s k
    else if k < s.cfg.n then F.neg (hermIm s (s.cfg.n - k)) else Arr.get s.xi k := by
  have hsize := hc.two_h
  rw [bodyHerm_eq, Arr.get_mirror F.neg (by omega), get_forceReal_rotatedBelow, get_forceReal_rotatedBelow]
  rcases Nat.lt_or_ge s.cfg.h k with hhigh | hlow
  · rw [if_neg (show ¬ k ≤ s.cfg.h by omega), if_pos (show s.cfg.n - k < s.cfg.h + 1 by omega),
      if_neg (show ¬ k < s.cfg.h + 1 by omega)]
    exact if_congr (by omega) rfl rfl
  · rw [if_neg (by omega), if_pos (Nat.lt_succ_of_le hlow), if_pos hlow]

theorem exec_herm {s : State} (hwarm : s.lstate ≠ .cold) : exec .herm s = .next (finish .ok (bodyHerm s)) :=
  exec_accepted rfl hwarm rfl

/-! ### `HERM`: how large it makes an element (R205) -/

/-- A smeared phase is wrapped: a wrapped phase is moved by at most PI (R205). -/
theorem smearPhase_isWrapped {smear synph : F} (x : Word) (hsmear : F.within .zero .one smear = true)
    (hsynph : synph.isWrapped = true) : (smearPhase smear synph x).isWrapped = true := by
  have hdepth : F.AtMost NumRef.piMag (F.mul smear .pi) := by
    rw [F.pi_eq]
    refine (F.atMost_one_of_within hsmear).mul (F.atMost_fin le_rfl) ?_
    rw [F.units_oneMag, Nat.mul_comm]
  have hmove : F.AtMost NumRef.piMag (F.mul (F.mul smear .pi) (smearUnit x)) :=
    hdepth.mul (smearUnit_atMost x) (by rw [F.units_oneMag])
  refine F.wrap_isWrapped (m := NumRef.twoPiMag) ((F.atMost_pi_of_isWrapped hsynph).add hmove ?_) ?_
  · rw [units_twoPiMag]
    omega
  · rw [F.twoPiMag_units]
    omega

/-- Every phase a bin is rotated by is finite. -/
theorem chosenPhase_isFinite {s : State} (h : s.Tracking) {k : Nat} (hk : k ≤ s.cfg.h) :
    (chosenPhase s k).isFinite = true := by
  have hsynph := h.phases.synph k hk
  unfold chosenPhase
  split
  · exact (F.atMost_pi_of_isWrapped (smearPhase_isWrapped _ h.running.inv.act.smear hsynph)).1
  · exact (F.atMost_pi_of_isWrapped hsynph).1

theorem atMost_one_of_within_neg {a : F} (hfin : a.isFinite = true) (h : F.within (F.neg .one) .one a = true) :
    F.AtMost NumRef.oneMag a := by
  obtain ⟨s, m, rfl⟩ := F.isFinite_iff.1 hfin
  rw [F.one_eq_fin] at h
  exact F.atMost_fin (NumRef.within_fin_iff.1 h)

/-- Cosine and sine of a finite phase are at most 1 in magnitude in every numeric record (00_scope.md R15 (b)). -/
theorem fcos_fsin_atMost (num : NumChoice) {a : F} (h : a.isFinite = true) :
    F.AtMost NumRef.oneMag (num.fns.fcos a) ∧ F.AtMost NumRef.oneMag (num.fns.fsin a) := by
  obtain ⟨-, -, -, hrange, -⟩ := numericRecordsMeetRanges num
  obtain ⟨hcfin, hc, hsfin, hs⟩ := hrange a h
  exact ⟨atMost_one_of_within_neg hcfin hc, atMost_one_of_within_neg hsfin hs⟩

/-- A rotated bin is at most its magnitude in both parts. -/
theorem rotated_atMost {s : State} (h : s.Tracking) {k : Nat} (hk : k ≤ s.cfg.h) {m : Mag}
    (hmag : Arr.get s.smag k = .fin false m) : F.AtMost m (rotatedRe s k) ∧ F.AtMost m (hermIm s k) := by
  obtain ⟨hcos, hsin⟩ := fcos_fsin_atMost s.cfg.num (chosenPhase_isFinite h hk)
  have hself : F.AtMost m (Arr.get s.smag k) := hmag ▸ F.atMost_fin le_rfl
  have hscale : m.units * NumRef.oneMag.units ≤ m.units * 2 ^ 149 := by rw [F.units_oneMag]
  refine ⟨hself.mul hcos hscale, ?_⟩
  unfold hermIm
  split
  · exact F.atMost_zero m
  · exact hself.mul hsin hscale

/-- A finite bin, which R60 keeps from ±0 up, bounds what it is rotated to. -/
theorem rotated_withinMagnitude {s : State} (h : s.Tracking) {k : Nat} (hk : k ≤ s.cfg.h)
    (hfin : (Arr.get s.smag k).isFinite = true) :
    (rotatedRe s k).isFinite = true ∧ (hermIm s k).isFinite = true
    ∧ F.le (F.abs (rotatedRe s k)) (Arr.get s.smag k) = true
    ∧ F.le (F.abs (hermIm s k)) (Arr.get s.smag k) = true := by
  obtain hinf | ⟨m, hmag⟩ := F.isNonneg_iff.1 (h.running.streaming.smag k hk)
  · rw [hinf] at hfin
    cases hfin
  · obtain ⟨hre, him⟩ := rotated_atMost h hk hmag
    rw [hmag]
    exact ⟨hre.1, him.1, hre.abs_le, him.abs_le⟩

end Machine

open Machine

/-- Settles O39: the loop meets each of the bins 1 to H as it was, and no other. -/
theorem accumAdvancesPhases : Obligations.AccumAdvancesPhases := by
  intro s hwarm
  refine ⟨finish .ok (bodyAccum s), exec_accepted rfl hwarm rfl, fun k hlow hhigh => ?advanced, fun k hk => ?others,
    finish_ok _⟩
  case advanced =>
    rw [finish_synph, get_bodyAccum_synph, if_pos ⟨hlow, hhigh⟩]
    rfl
  case others => rw [finish_synph, get_bodyAccum_synph, if_neg (by omega)]

/-- Settles O40: the rotation loop in closed form, then two edge bins forced real and the lower half mirrored. -/
theorem hermBuildsMirroredSpectrum : Obligations.HermBuildsMirroredSpectrum := by
  intro s hwf hwarm
  have hc := Cfg.isBuild hwf
  have hsize := hc.two_h
  have hphi : ∀ k, k ≤ s.cfg.h → Arr.get (bodyHerm s).phi k = chosenPhase s k := fun k hk =>
    (get_bodyHerm_phi s k).trans (if_pos (Nat.lt_succ_of_le hk))
  have hre : ∀ k, k ≤ s.cfg.h → Arr.get (bodyHerm s).xr k = rotatedRe s k := fun k hk =>
    (get_bodyHerm_xr hc k).trans (if_pos hk)
  have him : ∀ k, k ≤ s.cfg.h → Arr.get (bodyHerm s).xi k = hermIm s k := fun k hk =>
    (get_bodyHerm_xi hc k).trans (if_pos hk)
  refine ⟨_, exec_herm hwarm, hphi, bodyHerm_prng s, fun k hk => ?real, fun k hlow hhigh => ?inner, ?first, ?last,
    fun k hk => ?phiAbove, fun k hk => ?beyond, ?frame⟩
  case real => rw [finish_xr, finish_phi, hre k hk, hphi k hk, rotatedRe]
  case inner =>
    have hupper : ¬ s.cfg.n - k ≤ s.cfg.h := by omega
    have hinside : s.cfg.n - k < s.cfg.n := by omega
    have hback : s.cfg.n - (s.cfg.n - k) = k := by omega
    rw [finish_xr, finish_xi, finish_phi, hre k hhigh.le, him k hhigh.le, hphi k hhigh.le, get_bodyHerm_xr hc,
      get_bodyHerm_xi hc, if_neg hupper, if_neg hupper, if_pos hinside, if_pos hinside, hback]
    refine ⟨?_, rfl, rfl⟩
    rw [hermIm, if_neg (by omega), rotatedIm]
  case first => rw [finish_xi, him 0 (Nat.zero_le _), hermIm, if_pos (.inl rfl)]
  case last => rw [finish_xi, him s.cfg.h le_rfl, hermIm, if_pos (.inr rfl)]
  case phiAbove => rw [finish_phi, get_bodyHerm_phi, if_neg (by omega)]
  case beyond =>
    have habove : ¬ k ≤ s.cfg.h := by
      have := hc.nLow
      omega
    have houtside : ¬ k < s.cfg.n := by omega
    rw [finish_xr, finish_xi, get_bodyHerm_xr hc, get_bodyHerm_xi hc, if_neg habove, if_neg habove, if_neg houtside,
      if_neg houtside]
    exact ⟨rfl, rfl⟩
  case frame =>
    obtain ⟨_, _, _, _, h⟩ := bodyHerm_writes s
    rw [h, finish_ok]

/-- Settles O41: finite phases have cosines and sines of at most 1, and a mirrored element is its bin's own. -/
theorem hermStaysWithinMagnitude : Obligations.HermStaysWithinMagnitude := by
  intro s hinv hphase hwarm hfinite
  have htrack : s.Tracking := ⟨⟨hinv, hwarm⟩, hphase hwarm⟩
  have hc := htrack.running.build
  have hsize := hc.two_h
  refine ⟨_, exec_herm hwarm, fun k hk => ?_⟩
  dsimp only
  rw [finish_xr, finish_xi, get_bodyHerm_xr hc, get_bodyHerm_xi hc]
  by_cases hlow : k ≤ s.cfg.h
  · rw [if_pos hlow, if_pos hlow, if_pos hlow]
    exact rotated_withinMagnitude htrack hlow (hfinite k hlow)
  · have hbin : s.cfg.n - k ≤ s.cfg.h := by omega
    rw [if_neg hlow, if_neg hlow, if_neg hlow, if_pos hk, if_pos hk, F.isFinite_neg, F.abs_neg]
    exact rotated_withinMagnitude htrack hbin (hfinite _ hbin)

/-- Settles O42: no stage of the shift takes a word that is not 0 to 0, and a draw is exact. -/
theorem smearDrawInRange : Obligations.SmearDrawInRange := by
  intro x
  obtain ⟨i, hlow, hhigh, hfin, hrank⟩ := smearUnit_exact x
  refine ⟨xorshift_ne_zero, ?_, ?_⟩
  · rw [F.le_iff_rank rfl hfin, F.rank_neg rfl, F.rank_one, hrank]
    omega
  · rw [F.lt_iff_rank hfin rfl, F.rank_one, hrank]
    omega

end Sys2Proof
end

section
/-! SUPPORT. The overlap-add writer and reader (46_overlap_add.md R210 to R217): the cases of `OLAW` and of `POP`, each as
the state it leaves. -/

namespace Sys2Proof

/-- `LAT` as one difference (00_scope.md R8): the hop is no longer than the frame. -/
theorem Cfg.IsBuild.lat_eq {c : Cfg} (hc : c.IsBuild) : c.lat = 2 * c.n - c.ha := by
  have hhop := hc.haHigh
  rw [Cfg.lat]
  omega

namespace Machine

/-! ### `OLAW`: room in the ring (R211) -/

theorem exec_olaw {s : State} (hwarm : s.lstate ≠ .cold) : exec .olaw s = .next (finish .ok (bodyOlaw s)) :=
  exec_accepted rfl hwarm rfl

theorem ringFull_iff {s : State} : ringFull s = true ↔ s.cfg.l < s.avail + max s.cfg.n s.hs := decide_eq_true_iff

theorem bodyOlaw_of_full {s : State} (h : s.cfg.l < s.avail + max s.cfg.n s.hs) :
    bodyOlaw s = raiseGuard .bufferBoundsViolation s := by
  rw [bodyOlaw, if_pos (ringFull_iff.2 h)]

/-! ### `OLAW`: the additions (R210, R212) -/

theorem accumulate_of_finite {s : State} (h : ∀ j, j < s.cfg.n → (windowed s j).isFinite = true) :
    accumulate s = { s with ola := ringAdd s (windowed s) s.ola, env := ringAdd s s.cfg.wsAt s.env } := by
  rw [accumulate, if_pos (frameFinite_iff.2 h)]

theorem accumulate_of_nonFinite {s : State} {j : Nat} (hj : j < s.cfg.n) (h : (windowed s j).isFinite = false) :
    accumulate s = raiseGuard .numericalInstability s := by
  have hframe : ¬ frameFinite s = true := fun hall =>
    Bool.false_ne_true (h.symm.trans (frameFinite_iff.1 hall j hj))
  rw [accumulate, if_neg hframe]

/-- The additions write the ring's memories and count an event, and no more. -/
theorem accumulate_writes (s : State) :
    ∃ ola env diagNi, accumulate s = { s with ola := ola, env := env, diagNi := diagNi } := by
  unfold accumulate
  split
  · exact ⟨_, _, s.diagNi, rfl⟩
  · exact ⟨s.ola, s.env, _, rfl⟩

/-! ### `OLAW`: the advance (R210, R217) -/

/-- `LSTATE` once the writer has advanced: warm-up ends where `PRODUCED` reaches `LAT` (R217). -/
def advancedLState (s : State) : LState :=
  if s.lstate = .warming ∧ s.cfg.lat ≤ (satAdd s.produced s.hs).toNat then .steady else s.lstate

theorem advancedLState_ne_cold {s : State} (hwarm : s.lstate ≠ .cold) : advancedLState s ≠ .cold := by
  unfold advancedLState
  split
  · exact LState.noConfusion
  · exact hwarm

theorem settle_eq (s : State) :
    settle s = { s with
      lstate := if s.lstate = .warming ∧ s.cfg.lat ≤ s.produced.toNat then .steady else s.lstate } := by
  unfold settle
  split
  · rfl
  · rfl

/-- With room for the frame `OLAW` advances by `HS`, whatever the additions left in the ring and counted. -/
theorem bodyOlaw_of_room {s : State} {ola env : Arr} {diagNi : Word} (hroom : s.avail + max s.cfg.n s.hs ≤ s.cfg.l)
    (hadd : accumulate s = { s with ola := ola, env := env, diagNi := diagNi }) :
    bodyOlaw s = { s with
      ola := ola, env := env, diagNi := diagNi, wpos := (s.wpos + s.hs) % s.cfg.l, avail := s.avail + s.hs
      produced := satAdd s.produced s.hs, lstate := advancedLState s } := by
  rw [bodyOlaw, if_neg (mt ringFull_iff.1 (Nat.not_lt.2 hroom)), hadd, settle_eq]
  rfl

/-- An `OLAW` that is not dropped, but for what it adds. -/
theorem olaw_advances {s : State} {ola env : Arr} {diagNi : Word} (hwf : s.cfg.wf = true) (hwarm : s.lstate ≠ .cold)
    (hroom : s.avail + max s.cfg.n s.hs ≤ s.cfg.l)
    (hadd : accumulate s = { s with ola := ola, env := env, diagNi := diagNi }) :
    ∃ t, exec .olaw s = .next t ∧ t.ola = ola ∧ t.env = env
      ∧ t.produced.toNat = min (s.produced.toNat + s.hs) (2 ^ 32 - 1)
      ∧ t.lstate = (if s.lstate = .warming ∧ 2 * s.cfg.n - s.cfg.ha ≤ t.produced.toNat then .steady else s.lstate)
      ∧ t = { s with
          ola := ola, env := env, diagNi := diagNi, wpos := (s.wpos + s.hs) % s.cfg.l, avail := s.avail + s.hs
          produced := t.produced, lstate := t.lstate, result := .ok, cseq := s.cseq + 1 } := by
  refine ⟨_, exec_olaw hwarm, ?_⟩
  rw [bodyOlaw_of_room hroom hadd, finish_ok, ← (Cfg.isBuild hwf).lat_eq]
  exact ⟨rfl, rfl, satAdd_toNat _ _, rfl, rfl⟩

/-! ### `POP` (R213, R214) -/

theorem exec_pop {i : Nat} {s : State} (hwarm : s.lstate ≠ .cold) (hi : i < s.maxblk.toNat) :
    exec (.pop i) s = .next (finish .ok (bodyPop i s)) :=
  exec_accepted rfl hwarm (decide_eq_true hi)

/-- Pre-roll and shortfall differ in `PREROLL` only, which counts down to 0 and stays there. -/
theorem bodyPop_of_unavailable (i : Nat) {s : State} (h : 0 < s.preroll ∨ s.avail = 0) :
    bodyPop i s =
      ({ s with preroll := s.preroll - 1, warmz := satAdd s.warmz 1 } : State).setBuf i 0 := by
  unfold bodyPop
  split
  · rw [F.toBits_zero]
  · next hdone =>
    have hpreroll : s.preroll - 1 = s.preroll := by omega
    rw [if_pos (h.resolve_left hdone), F.toBits_zero, hpreroll]

theorem bodyPop_of_available (i : Nat) {s : State} (hpreroll : s.preroll = 0) (havail : 0 < s.avail) :
    bodyPop i s =
      emitSample i (cellSample s.cfg (Arr.get s.ola s.rpos) (Arr.get s.env s.rpos)) (consumeCell s) := by
  rw [bodyPop, if_neg (by omega), if_neg (by omega)]

theorem emitSample_eq (i : Nat) (v : F) (s : State) :
    emitSample i v s =
      ({ s with diagNi := if v.isFinite then s.diagNi else satAdd s.diagNi 1 } : State).setBuf i
        (if v.isFinite then v.toBits else 0) := by
  unfold emitSample
  split
  · rfl
  · rw [F.toBits_zero]
    rfl

theorem get_consumeCell_self (s : State) :
    Arr.get (consumeCell s).ola s.rpos = .zero ∧ Arr.get (consumeCell s).env s.rpos = .zero := by
  rw [consumeCell_ola, consumeCell_env, Arr.get_set_self, Arr.get_set_self]
  exact ⟨rfl, rfl⟩

theorem get_consumeCell_ne {s : State} {c : Nat} (hc : c ≠ s.rpos) :
    Arr.get (consumeCell s).ola c = Arr.get s.ola c ∧ Arr.get (consumeCell s).env c = Arr.get s.env c := by
  rw [consumeCell_ola, consumeCell_env, Arr.get_set_ne _ _ hc, Arr.get_set_ne _ _ hc]
  exact ⟨rfl, rfl⟩

theorem finish_bufWord (r : ResultCode) (s : State) (i : Nat) : (finish r s).bufWord i = s.bufWord i := rfl

/-- A `POP` whose body stores `w` leaves that word in `BUF[i]` and every byte outside it as it was. -/
theorem pop_stores {i : Nat} {s u : State} {w : Word} (hwarm : s.lstate ≠ .cold) (hi : i < s.maxblk.toNat)
    (hbody : bodyPop i s = u.setBuf i w) (hbuf : u.buf = s.buf) :
    exec (.pop i) s = .next (finish .ok (u.setBuf i w)) ∧ (finish .ok (u.setBuf i w)).bufWord i = w
      ∧ ∀ a, a < bufByteAddr i 0 ∨ bufByteAddr i 3 < a →
        Memory.readByte (finish .ok (u.setBuf i w)).buf a = Memory.readByte s.buf a := by
  refine ⟨hbody ▸ exec_pop hwarm hi, ?_, fun a ha => ?_⟩
  · rw [finish_bufWord, State.bufWord_setBuf_self]
  · rw [finish_buf, readByte_setBuf_outside u w ha, hbuf]

end Machine

open Machine

/-- Settles O43: without room, the guard's count is all that happens. -/
theorem olawDropsFrameThatDoesNotFit : Obligations.OlawDropsFrameThatDoesNotFit := by
  intro s hwarm hfull
  rw [exec_olaw hwarm, bodyOlaw_of_full hfull, finish_ok]
  rfl

/-- Settles O44: each cell of the frame's span gains its addend once, because N cells are less than a whole ring. -/
theorem olawAddsFrame : Obligations.OlawAddsFrame := by
  intro s hwf hwarm hroom hfinite
  have hspan : s.cfg.n ≤ s.cfg.l := by omega
  obtain ⟨hola, holaOthers⟩ := get_ringAdd (windowed s) s.ola hspan
  obtain ⟨henv, henvOthers⟩ := get_ringAdd s.cfg.wsAt s.env hspan
  obtain ⟨t, hexec, htola, htenv, hproduced, hlstate, ht⟩ :=
    olaw_advances (diagNi := s.diagNi) hwf hwarm hroom (accumulate_of_finite hfinite)
  refine ⟨t, hexec, fun j hj => ?gains, fun c hc => ?stays, hproduced, hlstate, ?frame⟩
  case gains =>
    rw [htola, htenv]
    exact ⟨hola j hj, henv j hj⟩
  case stays =>
    rw [htola, htenv]
    exact ⟨holaOthers c hc, henvOthers c hc⟩
  case frame =>
    rw [htola, htenv]
    exact ht

/-- Settles O45: one sample that is not finite makes the whole frame a counted event; the advance is the same. -/
theorem olawSkipsNonFiniteFrame : Obligations.OlawSkipsNonFiniteFrame := by
  intro s j hwf hwarm hroom hj hbad
  obtain ⟨t, hexec, -, -, hends⟩ := olaw_advances (ola := s.ola) (env := s.env) (diagNi := satAdd s.diagNi 1)
    hwf hwarm hroom (accumulate_of_nonFinite hj hbad)
  exact ⟨t, hexec, hends⟩

/-- Settles O46: both cases store +0 and count it, and neither touches the ring. -/
theorem popFillsWithZero : Obligations.PopFillsWithZero := by
  intro s i hwarm hi hnone
  obtain ⟨hexec, hword, hothers⟩ := pop_stores hwarm hi (bodyPop_of_unavailable i hnone) rfl
  exact ⟨_, hexec, hword, hothers, finish_ok _⟩

/-- Settles O47: the cell is read before it is cleared, and its sample stored or counted. -/
theorem popConsumesCell : Obligations.PopConsumesCell := by
  intro s i hwarm hi hpreroll havail a e v
  have hbody := (bodyPop_of_available i hpreroll havail).trans (emitSample_eq i v (consumeCell s))
  obtain ⟨hexec, hword, hothers⟩ := pop_stores hwarm hi hbody rfl
  obtain ⟨hola, henv⟩ := get_consumeCell_self s
  exact ⟨_, hexec, hword, rfl, hola, henv, fun _ hc => get_consumeCell_ne hc, hothers, finish_ok _⟩

end Sys2Proof
end

section
/-! SUPPORT. The sample buffer under the other commands (46_overlap_add.md R213), and the stream of blocks at unit hop
(46_overlap_add.md R215, R218; 47_facade.md R222): positions and counters of the overlap-add ring sample by sample. -/

namespace Sys2Proof

theorem satAdd_toNat_of_le {c : Word} {k : Nat} (h : c.toNat + k ≤ 2 ^ 32 - 1) : (satAdd c k).toNat = c.toNat + k := by
  rw [satAdd_toNat, Nat.min_eq_left h]

namespace Machine

/-! ### Commands that leave the sample buffer -/

theorem FrameWrites.buf_eq {s t : State} (h : FrameWrites s t) : t.buf = s.buf := by
  obtain ⟨_, _, _, _, _, _, _, _, _, _, _, _, _, _, _, _, _, _, _, _, _, _, _, _, rfl⟩ := h
  rfl

theorem bodyFrame_buf (s : State) : (bodyFrame s).buf = s.buf := by
  obtain ⟨_, hparts, hframe⟩ := bodyFrame_writes s
  rw [hframe]
  exact hparts.buf_eq

/-- Of the bodies only those of `POP` and `PROCESS` store a sample. -/
theorem pipelineBody_buf {i : Instr} (s : State) (hpop : ∀ k, i ≠ .pop k) (hprocess : ∀ n, i ≠ .process n) :
    (pipelineBody i s).buf = s.buf := by
  cases i with
  | pop k => exact absurd rfl (hpop k)
  | process n => exact absurd rfl (hprocess n)
  | frame => exact bodyFrame_buf s
  | fftf => exact (frameWrites_fftf s).buf_eq
  | ffti => exact (frameWrites_ffti s).buf_eq
  | modify => exact (frameWrites_modify s).buf_eq
  | herm => exact (frameWrites_herm s).buf_eq
  | olaw => exact (frameWrites_olaw s).buf_eq
  | nop | prepare | reset | push | extract | loadx | bitrev | bfly | zim | scaley | polar | track | accum => rfl

/-! ### What `OLAW` meets in a frame -/

/-- The parts of `FRAME` before `OLAW` (47_facade.md R226). -/
def beforeOlaw (s : State) : State :=
  bodyFfti (bodyHerm (bodyAccum (bodyModify (bodyTrack (bodyPolar (bodyFftf (bodyExtract s)))))))

theorem frameParts_eq (s : State) : frameParts s = bodyOlaw (beforeOlaw s) := rfl

/-- The hop that `MODIFY` sets (44_modifier.md R186). -/
def nextHop (s : State) : Nat := if s.variant = .stretch then stretchHop s.cfg s.act.stretch else s.cfg.ha

theorem FrameWrites.nextHop_eq {s t : State} (h : FrameWrites s t) : nextHop t = nextHop s := by
  obtain ⟨_, _, _, _, _, _, _, _, _, _, _, _, _, _, _, _, _, _, _, _, _, _, _, _, rfl⟩ := h
  rfl

/-- What decides whether a frame fits, and what `OLAW` then advances or counts: the build, `LSTATE`, `AVAIL`, `DIAG_BBV`
and `HS`. -/
def writerView (s : State) : Cfg × LState × Nat × Word × Nat := (s.cfg, s.lstate, s.avail, s.diagBbv, s.hs)

theorem writerView_eq_iff {s : State} {cfg : Cfg} {lstate : LState} {avail hs : Nat} {diagBbv : Word} :
    writerView s = (cfg, lstate, avail, diagBbv, hs) ↔
      s.cfg = cfg ∧ s.lstate = lstate ∧ s.avail = avail ∧ s.diagBbv = diagBbv ∧ s.hs = hs := by
  simp only [writerView, Prod.mk.injEq]

theorem writerView_extract (s : State) : writerView (bodyExtract s) = writerView s := rfl

theorem writerView_polar (s : State) : writerView (bodyPolar s) = writerView s := rfl

theorem writerView_track (s : State) : writerView (bodyTrack s) = writerView s := rfl

theorem writerView_accum (s : State) : writerView (bodyAccum s) = writerView s := rfl

theorem writerView_countFrame (s : State) (n : Word) : writerView { s with framecnt := n } = writerView s := rfl

theorem writerView_fftf (s : State) : writerView (bodyFftf s) = writerView s := by
  obtain ⟨_, _, h⟩ := bodyFftf_writes s
  rw [h]
  rfl

theorem writerView_modify (s : State) :
    writerView (bodyModify s) = (s.cfg, s.lstate, s.avail, s.diagBbv, nextHop s) := by
  have hhop : (bodyModify s).hs = nextHop s := bodyModify_hs s
  rw [← hhop]
  obtain ⟨_, _, _, _, _, _, _, h⟩ := bodyModify_writes s
  rw [h]
  rfl

theorem writerView_herm (s : State) : writerView (bodyHerm s) = writerView s := by
  obtain ⟨_, _, _, _, h⟩ := bodyHerm_writes s
  rw [h]
  rfl

theorem writerView_ffti (s : State) : writerView (bodyFfti s) = writerView s := by
  obtain ⟨_, _, _, h⟩ := bodyFfti_writes s
  rw [h]
  rfl

/-- Of what `OLAW` goes by, the parts before it change `HS` alone. -/
theorem writerView_beforeOlaw (s : State) :
    writerView (beforeOlaw s) = (s.cfg, s.lstate, s.avail, s.diagBbv, nextHop s) := by
  have htracked : FrameWrites s (bodyTrack (bodyPolar (bodyFftf (bodyExtract s)))) :=
    frameWrites_trans (frameWrites_trans (frameWrites_trans (frameWrites_extract _) (frameWrites_fftf _))
      (frameWrites_polar _)) (frameWrites_track _)
  have hview : writerView (bodyTrack (bodyPolar (bodyFftf (bodyExtract s)))) = writerView s := by
    rw [writerView_track, writerView_polar, writerView_fftf, writerView_extract]
  rw [beforeOlaw, writerView_ffti, writerView_herm, writerView_accum, writerView_modify, htracked.nextHop_eq]
  generalize bodyTrack (bodyPolar (bodyFftf (bodyExtract s))) = u at hview ⊢
  obtain ⟨hcfg, hlstate, havail, hbbv, -⟩ := writerView_eq_iff.1 hview
  rw [hcfg, hlstate, havail, hbbv]

/-- With room for the frame and its hop `OLAW` drops nothing (46_overlap_add.md R210, R211). -/
theorem bodyOlaw_advances {s : State} (hwarm : s.lstate ≠ .cold) (hroom : s.avail + max s.cfg.n s.hs ≤ s.cfg.l) :
    (bodyOlaw s).lstate ≠ .cold ∧ (bodyOlaw s).avail = s.avail + s.hs ∧ (bodyOlaw s).diagBbv = s.diagBbv := by
  obtain ⟨_, _, _, hadd⟩ := accumulate_writes s
  rw [bodyOlaw_of_room hroom hadd]
  exact ⟨advancedLState_ne_cold hwarm, rfl, rfl⟩

theorem frameParts_advances {s : State} (hwarm : s.lstate ≠ .cold)
    (hroom : s.avail + max s.cfg.n (nextHop s) ≤ s.cfg.l) :
    (frameParts s).lstate ≠ .cold ∧ (frameParts s).avail = s.avail + nextHop s
      ∧ (frameParts s).diagBbv = s.diagBbv := by
  obtain ⟨hcfg, hlstate, havail, hbbv, hhop⟩ := writerView_eq_iff.1 (writerView_beforeOlaw s)
  rw [← hlstate] at hwarm
  rw [← hcfg, ← havail, ← hhop] at hroom
  rw [frameParts_eq, ← havail, ← hbbv, ← hhop]
  exact bodyOlaw_advances hwarm hroom

theorem bodyFrame_advances {s : State} (hwarm : s.lstate ≠ .cold)
    (hroom : s.avail + max s.cfg.n (nextHop s) ≤ s.cfg.l) :
    (bodyFrame s).lstate ≠ .cold ∧ (bodyFrame s).avail = s.avail + nextHop s ∧ (bodyFrame s).diagBbv = s.diagBbv := by
  have hview : writerView (bodyFrame s) = writerView (frameParts s) := by
    rw [bodyFrame_eq, writerView_countFrame]
  obtain ⟨-, hlstate, havail, hbbv, -⟩ := writerView_eq_iff.1 hview
  rw [hlstate, havail, hbbv]
  exact frameParts_advances hwarm hroom

/-! ### Unit hop -/

theorem stretchHop_one {c : Cfg} (hc : c.IsBuild) : stretchHop c .one = c.ha := by
  have hlow := hc.haLow
  have hhop := hc.haHigh
  have hframe := hc.nHigh
  have hmax := hc.ha_le_hsMax
  have hsmall : c.ha ≤ 2 ^ 24 := by omega
  obtain ⟨m, hm, -⟩ := F.ofInt_small hsmall
  have hfin : (F.ofInt c.ha).isFinite = true := by
    rw [hm]
    rfl
  rw [stretchHop, F.mul_one_of_isFinite hfin, F.rhaz_ofInt hsmall]
  omega

/-- A prepared engine of a build whose `MODIFY` will set the hop to `HA`, before and after the next latch. -/
structure UnitHop (p : State) : Prop where
  build : p.cfg.IsBuild
  latched : p.act = p.pub
  hop : p.variant ≠ .stretch ∨ p.act.stretch = .one

theorem UnitHop.nextHop_eq {p : State} (hp : UnitHop p) : nextHop p = p.cfg.ha := by
  unfold nextHop
  split
  · next hstretch => rw [hp.hop.resolve_left (not_not_intro hstretch), stretchHop_one hp.build]
  · rfl

/-- Where the stream that began at `p` stands at `s` when `pushed` samples have gone in, `frames` frames have run, and
`popped` samples have come out (46_overlap_add.md R215, R218). -/
structure Streamed (p : State) (pushed frames popped : Nat) (s : State) : Prop where
  warm : s.lstate ≠ .cold
  cfg : s.cfg = p.cfg
  maxblk : s.maxblk = p.maxblk
  variant : s.variant = p.variant
  pub : s.pub = p.pub
  act : s.act = p.act
  diagBbv : s.diagBbv = p.diagBbv
  hopcnt : s.hopcnt = hopAfter p.cfg.ha pushed
  framecnt : s.framecnt = BitVec.ofNat 32 frames
  avail : s.avail + (popped - p.cfg.n) = frames * p.cfg.ha
  preroll : s.preroll = p.cfg.n - popped
  warmz : s.warmz.toNat = min popped p.cfg.n

section Stream

variable {p s : State} {pushed frames popped : Nat}

theorem Streamed.finish (h : Streamed p pushed frames popped s) (r : ResultCode) :
    Streamed p pushed frames popped (finish r s) := { h with }

theorem Streamed.latch (hp : UnitHop p) (h : Streamed p pushed frames popped s) :
    Streamed p pushed frames popped (latch s) :=
  { h with act := h.pub.trans hp.latched.symm }

theorem Streamed.push (hp : UnitHop p) (h : Streamed p pushed frames popped s) (i : Nat) :
    Streamed p (pushed + 1) frames popped (bodyPush i s) :=
  { h with
    hopcnt := by rw [bodyPush_hopcnt, h.hopcnt, h.cfg, hopAfter_next hp.build.haLow] }

/-- A frame for which the ring has room. -/
theorem Streamed.frame (hp : UnitHop p) (h : Streamed p pushed frames popped s)
    (hroom : s.avail + p.cfg.n ≤ p.cfg.l) : Streamed p pushed (frames + 1) popped (bodyFrame s) := by
  have hhop : nextHop s = p.cfg.ha := by
    rw [← hp.nextHop_eq, nextHop, h.variant, h.cfg, h.act]
    rfl
  have hlength := hp.build.haHigh
  obtain ⟨hwarm, havail, hbbv⟩ := bodyFrame_advances h.warm (by rw [h.cfg, hhop]; omega)
  have hcells : (bodyFrame s).avail + (popped - p.cfg.n) = (frames + 1) * p.cfg.ha := by
    have hbefore := h.avail
    rw [havail, hhop, Nat.add_mul]
    omega
  have hcount : s.framecnt + 1 = BitVec.ofNat 32 (frames + 1) := by
    rw [h.framecnt, BitVec.ofNat_add]
    rfl
  rw [h.diagBbv] at hbbv
  obtain ⟨_, ⟨_, _, _, _, _, _, _, _, _, _, _, _, _, _, _, _, _, _, _, _, _, _, _, _, rfl⟩, hframe⟩ :=
    bodyFrame_writes s
  rw [hframe] at hwarm hbbv hcells ⊢
  exact { h with warm := hwarm, diagBbv := hbbv, avail := hcells, framecnt := hcount }

/-- A pop that is still in the pre-roll or finds an unread cell (R213). -/
theorem Streamed.pop (hp : UnitHop p) (h : Streamed p pushed frames popped s) (i : Nat)
    (hcell : p.cfg.n ≤ popped → 0 < s.avail) : Streamed p pushed frames (popped + 1) (bodyPop i s) := by
  have hframe := hp.build.nHigh
  have havail := h.avail
  have hpreroll := h.preroll
  have hwarmz := h.warmz
  rcases Nat.lt_or_ge popped p.cfg.n with hlt | hge
  · have hcells : s.avail + (popped + 1 - p.cfg.n) = frames * p.cfg.ha := by omega
    have hleft : s.preroll - 1 = p.cfg.n - (popped + 1) := by omega
    have hbelow : s.warmz.toNat = popped := hwarmz.trans (Nat.min_eq_left hlt.le)
    have hcount : (satAdd s.warmz 1).toNat = min (popped + 1) p.cfg.n := by
      rw [satAdd_toNat_of_le (by omega), Nat.min_eq_left hlt, hbelow]
    rw [bodyPop_of_unavailable i (.inl (by omega))]
    exact { h with avail := hcells, preroll := hleft, warmz := hcount }
  · have hunread := hcell hge
    have hcells : s.avail - 1 + (popped + 1 - p.cfg.n) = frames * p.cfg.ha := by omega
    have hleft : s.preroll = p.cfg.n - (popped + 1) := by omega
    have hcount : s.warmz.toNat = min (popped + 1) p.cfg.n := by omega
    rw [bodyPop_of_available i (by omega) hunread, emitSample_eq]
    exact { h with avail := hcells, preroll := hleft, warmz := hcount }

end Stream

section Samples

variable {p s : State} {k : Nat}

/-- The frame of a complete hop always fits: at most N samples have gone in that have not come out past the pre-roll, and
the ring holds two frames (R215). -/
theorem Streamed.frameIfDue (hp : UnitHop p) (h : Streamed p (k + 1) (k / p.cfg.ha) k s) :
    Streamed p (k + 1) ((k + 1) / p.cfg.ha) k (frameIfDue s) := by
  have hha := hp.build.haLow
  have hdue : s.hopcnt = s.cfg.ha ↔ p.cfg.ha ∣ k + 1 := by
    rw [h.hopcnt, h.cfg, hopAfter_eq_hop_iff hha, Nat.dvd_iff_mod_eq_zero]
    exact and_iff_right k.succ_pos
  rw [Machine.frameIfDue, Nat.succ_div, if_congr hdue rfl rfl]
  split
  · refine h.frame hp ?_
    have hring := hp.build.ringTwice
    have havail := h.avail
    have hhops := Nat.div_mul_le_self k p.cfg.ha
    omega
  · exact h

/-- One sample of the block loop drops nothing and reads no cell too early (R215, R218). -/
theorem Streamed.sample (hp : UnitHop p) (h : Streamed p k (k / p.cfg.ha) k s) (i : Nat) :
    Streamed p (k + 1) ((k + 1) / p.cfg.ha) (k + 1) (processSample i s) := by
  have hdue := (h.push hp i).frameIfDue hp
  refine hdue.pop hp i fun hdone => ?_
  have hha := hp.build.haLow
  have hhop := hp.build.haHigh
  have havail := hdue.avail
  have hhops := Nat.lt_div_mul_add (a := k + 1) (b := p.cfg.ha) hha
  omega

theorem Streamed.process (hp : UnitHop p) (h : Streamed p k (k / p.cfg.ha) k s) (n : Nat) :
    Streamed p (k + n) ((k + n) / p.cfg.ha) (k + n) (bodyProcess n s) :=
  forRange_induction (P := fun j t => Streamed p (k + j) ((k + j) / p.cfg.ha) (k + j) t) (h.latch hp)
    fun j _ _ ht => ht.sample hp j

end Samples

/-! ### Whole blocks -/

theorem exec_process {n : Nat} {s : State} (hwarm : s.lstate ≠ .cold) (hn : n ≤ s.maxblk.toNat) :
    exec (.process n) s = .next (finish .ok (bodyProcess n s)) :=
  exec_accepted rfl hwarm (decide_eq_true hn)

theorem streamed_blocks {p s t : State} {ns : List Nat} {k : Nat} (hp : UnitHop p)
    (h : Streamed p k (k / p.cfg.ha) k s) (hns : ∀ n ∈ ns, n ≤ p.maxblk.toNat)
    (hrun : execAll (ns.map .process) s = some t) :
    Streamed p (k + ns.sum) ((k + ns.sum) / p.cfg.ha) (k + ns.sum) t := by
  induction ns generalizing s k with
  | nil =>
    cases hrun
    exact h
  | cons n ns ih =>
    obtain ⟨hn, hns⟩ := List.forall_mem_cons.1 hns
    rw [List.map_cons, execAll_cons _ (exec_process h.warm (h.maxblk ▸ hn))] at hrun
    rw [List.sum_cons, ← Nat.add_assoc]
    exact ih ((h.process hp n).finish .ok) hns hrun

/-- A `PREPARE` that ends `OK` has latched its operands and `PUB` (47_facade.md R224). -/
theorem prepare_accepted {v m : Nat} {s p : State} (h : exec (.prepare v m) s = .next p) (hok : p.result = .ok) :
    ∃ variant, v = variant.code ∧ m ≤ s.cfg.maxBlkHw ∧ p = finish .ok (prepared variant m s) := by
  have hexec : exec (.prepare v m) s = execPrepare v m s := rfl
  rw [hexec, execPrepare] at h
  split at h
  · next variant hprep =>
    cases h
    obtain ⟨hv, -, hm, -⟩ := preparable_eq_some.1 hprep
    exact ⟨variant, hv, hm, rfl⟩
  · cases h
    cases hok

theorem unitHop_prepared {variant : Variant} {s : State} (m : Nat) (hwf : s.cfg.wf = true)
    (hunit : variant ≠ .stretch ∨ s.pub.stretch = .one) : UnitHop (finish .ok (prepared variant m s)) where
  build := Cfg.isBuild hwf
  latched := rfl
  hop := hunit

theorem streamed_prepared (variant : Variant) (m : Nat) (s : State) :
    Streamed (finish .ok (prepared variant m s)) 0 (0 / s.cfg.ha) 0 (finish .ok (prepared variant m s)) where
  warm := LState.noConfusion
  cfg := rfl
  maxblk := rfl
  variant := rfl
  pub := rfl
  act := rfl
  diagBbv := rfl
  hopcnt := rfl
  framecnt := by
    rw [Nat.zero_div]
    rfl
  avail := by
    show 0 + (0 - s.cfg.n) = 0 / s.cfg.ha * s.cfg.ha
    rw [Nat.zero_div, Nat.zero_mul, Nat.zero_sub]
  preroll := rfl
  warmz := by
    show 0 = min 0 s.cfg.n
    rw [Nat.zero_min]

end Machine

open Machine

/-- Settles O15: a refusal, a lifecycle command, and every body but those of `POP` and `PROCESS` keep `BUF`. -/
theorem otherCommandsKeepBuffer : Obligations.OtherCommandsKeepBuffer := by
  intro i s t hpop hprocess hexec a
  suffices hbuf : t.buf = s.buf by rw [hbuf]
  rcases exec_cases hexec with ⟨_, -, rfl⟩ | ⟨-, rfl⟩ | ⟨-, rfl⟩ | ⟨_, _, _, -, -, rfl⟩ | ⟨-, rfl⟩ | ⟨-, -, rfl⟩
  · rfl
  · rfl
  · rfl
  · rfl
  · rfl
  · exact pipelineBody_buf s hpop hprocess

/-- Settles O51: `PREPARE` starts a stream at unit hop, and every sample of every block keeps its positions. -/
theorem unitHopStreamDropsNothing : Obligations.UnitHopStreamDropsNothing := by
  intro s p t v m ns hwf hunit hprepare hok hns hrun
  obtain ⟨variant, rfl, hm, rfl⟩ := prepare_accepted hprepare hok
  have hvariant : variant ≠ .stretch ∨ s.pub.stretch = .one :=
    hunit.imp_left fun hcode hstretch => hcode (by rw [hstretch]; rfl)
  have hp := unitHop_prepared m hwf hvariant
  have hblock : (finish .ok (prepared variant m s)).maxblk.toNat = m := by
    have hbuf := (Cfg.isBuild hwf).bufHigh
    show (BitVec.ofNat 21 m).toNat = m
    rw [BitVec.toNat_ofNat, Nat.mod_eq_of_lt (by omega)]
  have hend := streamed_blocks hp (streamed_prepared variant m s) (by rwa [hblock]) hrun
  rw [Nat.zero_add] at hend
  exact ⟨hend.diagBbv, hend.warmz, hend.framecnt⟩

end Sys2Proof
end

section
/-! SUPPORT. What the commands leave alone and what they do to the lifecycle (47_facade.md R220, R221, R228): what
a pipeline body keeps, the one change of `LSTATE` it can make, and the ways a command is refused. -/

namespace Sys2Proof

namespace Machine

/-! ### What a command leaves to the host and to the end of commands -/

/-- From `s` to `t` nothing changes of what only the host or the end of a command writes (10_state.md R34, R36, R37,
R42, R43). -/
structure Untouched (s t : State) : Prop where
  cseq : t.cseq = s.cseq
  cmderr : t.cmderr = s.cmderr
  arg0 : t.arg0 = s.arg0
  param : t.param = s.param
  pub : t.pub = s.pub
  diagPor : t.diagPor = s.diagPor
  cfg : t.cfg = s.cfg
  pending : t.pending = s.pending
  rdata : t.rdata = s.rdata

theorem Untouched.refl (s : State) : Untouched s s := ⟨rfl, rfl, rfl, rfl, rfl, rfl, rfl, rfl, rfl⟩

theorem Untouched.trans {s t u : State} (h : Untouched s t) (h' : Untouched t u) : Untouched s u where
  cseq := h'.cseq.trans h.cseq
  cmderr := h'.cmderr.trans h.cmderr
  arg0 := h'.arg0.trans h.arg0
  param := h'.param.trans h.param
  pub := h'.pub.trans h.pub
  diagPor := h'.diagPor.trans h.diagPor
  cfg := h'.cfg.trans h.cfg
  pending := h'.pending.trans h.pending
  rdata := h'.rdata.trans h.rdata

theorem FrameWrites.untouched {s t : State} (h : FrameWrites s t) : Untouched s t := by
  obtain ⟨_, _, _, _, _, _, _, _, _, _, _, _, _, _, _, _, _, _, _, _, _, _, _, _, rfl⟩ := h
  exact { Untouched.refl s with }

theorem untouched_frame (s : State) : Untouched s (bodyFrame s) := by
  obtain ⟨_, hparts, hframe⟩ := bodyFrame_writes s
  rw [hframe]
  exact { hparts.untouched with }

theorem untouched_pop (i : Nat) (s : State) : Untouched s (bodyPop i s) := by
  obtain ⟨_, _, _, _, _, _, _, _, hpop⟩ := bodyPop_writes i s
  rw [hpop]
  exact { Untouched.refl s with }

theorem untouched_push (i : Nat) (s : State) : Untouched s (bodyPush i s) := { Untouched.refl s with }

theorem untouched_frameIfDue (s : State) : Untouched s (frameIfDue s) := by
  unfold frameIfDue
  split
  · exact untouched_frame s
  · exact Untouched.refl s

theorem untouched_processSample (i : Nat) (s : State) : Untouched s (processSample i s) :=
  ((untouched_push i s).trans (untouched_frameIfDue _)).trans (untouched_pop i _)

theorem untouched_process (n : Nat) (s : State) : Untouched s (bodyProcess n s) :=
  forRange_keeps (P := Untouched s) { Untouched.refl s with } fun i t _ ht => ht.trans (untouched_processSample i t)

theorem untouched_pipelineBody (i : Instr) (s : State) : Untouched s (pipelineBody i s) := by
  cases i with
  | process n => exact untouched_process n s
  | frame => exact untouched_frame s
  | pop k => exact untouched_pop k s
  | fftf => exact (frameWrites_fftf s).untouched
  | ffti => exact (frameWrites_ffti s).untouched
  | modify => exact (frameWrites_modify s).untouched
  | herm => exact (frameWrites_herm s).untouched
  | olaw => exact (frameWrites_olaw s).untouched
  | _ => exact { Untouched.refl s with }

/-! ### Warm-up -/

/-- Neither `LSTATE` nor what decides when warm-up ends changes from `s` to `t`. -/
structure HoldsProgress (s t : State) : Prop where
  cfg : t.cfg = s.cfg
  produced : t.produced = s.produced
  lstate : t.lstate = s.lstate

theorem HoldsProgress.refl (s : State) : HoldsProgress s s := ⟨rfl, rfl, rfl⟩

theorem HoldsProgress.trans {s t u : State} (h : HoldsProgress s t) (h' : HoldsProgress t u) : HoldsProgress s u :=
  ⟨h'.cfg.trans h.cfg, h'.produced.trans h.produced, h'.lstate.trans h.lstate⟩

theorem holdsProgress_fftf (s : State) : HoldsProgress s (bodyFftf s) := by
  obtain ⟨_, _, h⟩ := bodyFftf_writes s
  rw [h]
  exact { HoldsProgress.refl s with }

theorem holdsProgress_ffti (s : State) : HoldsProgress s (bodyFfti s) := by
  obtain ⟨_, _, _, h⟩ := bodyFfti_writes s
  rw [h]
  exact { HoldsProgress.refl s with }

theorem holdsProgress_modify (s : State) : HoldsProgress s (bodyModify s) := by
  obtain ⟨_, _, _, _, _, _, _, h⟩ := bodyModify_writes s
  rw [h]
  exact { HoldsProgress.refl s with }

theorem holdsProgress_herm (s : State) : HoldsProgress s (bodyHerm s) := by
  obtain ⟨_, _, _, _, h⟩ := bodyHerm_writes s
  rw [h]
  exact { HoldsProgress.refl s with }

theorem holdsProgress_pop (i : Nat) (s : State) : HoldsProgress s (bodyPop i s) := by
  obtain ⟨_, _, _, _, _, _, _, _, h⟩ := bodyPop_writes i s
  rw [h]
  exact { HoldsProgress.refl s with }

/-- `OLAW`, alone or in a `FRAME`, is what can end warm-up. -/
theorem holdsProgress_pipelineBody {i : Instr} (s : State) (holaw : i ≠ .olaw) (hframe : i ≠ .frame)
    (hprocess : ∀ n, i ≠ .process n) : HoldsProgress s (pipelineBody i s) := by
  cases i with
  | olaw => exact absurd rfl holaw
  | frame => exact absurd rfl hframe
  | process n => exact absurd rfl (hprocess n)
  | fftf => exact holdsProgress_fftf s
  | ffti => exact holdsProgress_ffti s
  | modify => exact holdsProgress_modify s
  | herm => exact holdsProgress_herm s
  | pop k => exact holdsProgress_pop k s
  | nop | prepare | reset | push | extract | loadx | bitrev | bfly | zim | scaley | polar | track | accum =>
    exact { HoldsProgress.refl s with }

theorem holdsProgress_beforeOlaw (s : State) : HoldsProgress s (beforeOlaw s) := by
  have hpart {t : State} (i : Instr) (hi : i ∈ frameCommands.dropLast) (h : HoldsProgress s t) :
      HoldsProgress s (pipelineBody i t) := by
    refine h.trans (holdsProgress_pipelineBody t ?_ ?_ fun n => ?_) <;> rintro rfl
    · exact absurd hi (by decide)
    · exact absurd hi (by decide)
    · simp [frameCommands] at hi
  exact hpart .ffti (by decide) (hpart .herm (by decide) (hpart .accum (by decide) (hpart .modify (by decide)
    (hpart .track (by decide) (hpart .polar (by decide) (hpart .fftf (by decide)
    (hpart .extract (by decide) (HoldsProgress.refl s))))))))

/-- From `s` to `t` the engine stays where it is in its lifecycle, or goes from `Warming` to `Steady` with `PRODUCED` at
`LAT`; `PRODUCED` does not go down (46_overlap_add.md R217). -/
structure WarmsUp (s t : State) : Prop where
  cfg : t.cfg = s.cfg
  produced : s.produced.toNat ≤ t.produced.toNat
  lstate : t.lstate = s.lstate ∨ s.lstate = .warming ∧ t.lstate = .steady ∧ s.cfg.lat ≤ t.produced.toNat

theorem HoldsProgress.warmsUp {s t : State} (h : HoldsProgress s t) : WarmsUp s t :=
  ⟨h.cfg, h.produced ▸ Nat.le_refl _, .inl h.lstate⟩

theorem WarmsUp.trans {s t u : State} (h : WarmsUp s t) (h' : WarmsUp t u) : WarmsUp s u := by
  refine ⟨h'.cfg.trans h.cfg, h.produced.trans h'.produced, ?_⟩
  rcases h'.lstate with hsame | ⟨hwarming, hsteady, hlat⟩
  · rw [hsame]
    exact h.lstate.imp_right fun ⟨hwarming, hsteady, hlat⟩ => ⟨hwarming, hsteady, hlat.trans h'.produced⟩
  · rcases h.lstate with hsame | ⟨-, hsteady', -⟩
    · exact .inr ⟨hsame ▸ hwarming, hsteady, h.cfg ▸ hlat⟩
    · exact absurd (hsteady'.symm.trans hwarming) LState.noConfusion

/-- Warm-up never leads to `Cold`. -/
theorem WarmsUp.warm {s t : State} (h : WarmsUp s t) (hwarm : s.lstate ≠ .cold) : t.lstate ≠ .cold := by
  rcases h.lstate with hsame | ⟨-, hsteady, -⟩
  · rwa [hsame]
  · rw [hsteady]
    exact LState.noConfusion

theorem warmsUp_olaw (s : State) : WarmsUp s (bodyOlaw s) := by
  by_cases hroom : s.avail + max s.cfg.n s.hs ≤ s.cfg.l
  · obtain ⟨_, _, _, hadd⟩ := accumulate_writes s
    rw [bodyOlaw_of_room hroom hadd]
    refine ⟨rfl, le_satAdd _ _, ?_⟩
    show advancedLState s = s.lstate ∨ s.lstate = .warming ∧ advancedLState s = .steady ∧ _
    unfold advancedLState
    split
    · next hready => exact .inr ⟨hready.1, rfl, hready.2⟩
    · exact .inl rfl
  · rw [bodyOlaw_of_full (Nat.lt_of_not_le hroom)]
    exact HoldsProgress.warmsUp { HoldsProgress.refl s with }

theorem WarmsUp.countFrame {s t : State} (h : WarmsUp s t) (n : Word) : WarmsUp s { t with framecnt := n } :=
  { h with }

theorem warmsUp_frameParts (s : State) : WarmsUp s (frameParts s) := by
  rw [frameParts_eq]
  exact (holdsProgress_beforeOlaw s).warmsUp.trans (warmsUp_olaw (beforeOlaw s))

theorem warmsUp_frame (s : State) : WarmsUp s (bodyFrame s) := by
  rw [bodyFrame_eq]
  exact (warmsUp_frameParts s).countFrame _

theorem warmsUp_frameIfDue (s : State) : WarmsUp s (frameIfDue s) := by
  unfold frameIfDue
  split
  · exact warmsUp_frame s
  · exact (HoldsProgress.refl s).warmsUp

theorem warmsUp_push (i : Nat) (s : State) : WarmsUp s (bodyPush i s) :=
  HoldsProgress.warmsUp { HoldsProgress.refl s with }

theorem warmsUp_processSample (i : Nat) (s : State) : WarmsUp s (processSample i s) :=
  ((warmsUp_push i s).trans (warmsUp_frameIfDue _)).trans (holdsProgress_pop i _).warmsUp

theorem warmsUp_process (n : Nat) (s : State) : WarmsUp s (bodyProcess n s) :=
  forRange_keeps (P := WarmsUp s) (HoldsProgress.warmsUp { HoldsProgress.refl s with }) fun i t _ ht =>
    ht.trans (warmsUp_processSample i t)

theorem warmsUp_pipelineBody (i : Instr) (s : State) : WarmsUp s (pipelineBody i s) := by
  cases i with
  | olaw => exact warmsUp_olaw s
  | frame => exact warmsUp_frame s
  | process n => exact warmsUp_process n s
  | _ => exact (holdsProgress_pipelineBody s Instr.noConfusion Instr.noConfusion fun _ => Instr.noConfusion).warmsUp

/-! ### How a command ends -/

theorem exec_next (i : Instr) (s : State) : ∃ t, exec i s = .next t := by
  by_cases hneeds : needsPrepared i = true
  · rw [exec_eq_pipelineCommand s hneeds]
    exact pipelineCommand_next _ _ s
  · cases i with
    | nop => exact ⟨_, rfl⟩
    | reset => exact ⟨_, rfl⟩
    | prepare v m =>
      show ∃ t, execPrepare v m s = .next t
      unfold execPrepare
      split <;> exact ⟨_, rfl⟩
    | _ => exact absurd rfl hneeds

/-- The end of a `PREPARE` that leaves `Cold` (47_facade.md R224). -/
theorem finish_failedPrepare (s : State) :
    finish .prepFail { s with lstate := .cold } = { refusedWith .prepFail s with lstate := .cold } :=
  finish_refused (r := .prepFail) (by decide) _

/-- A command is what its body does, then the end of a command (47_facade.md R220). -/
theorem exec_finishes {i : Instr} {s t : State} (h : exec i s = .next t) : ∃ r u, Untouched s u ∧ t = finish r u := by
  rcases exec_cases h with ⟨r, hr, rfl⟩ | ⟨-, rfl⟩ | ⟨-, rfl⟩ | ⟨_, m, variant, -, -, rfl⟩ | ⟨-, rfl⟩ | ⟨-, -, rfl⟩
  · exact ⟨r, s, Untouched.refl s, (finish_refused hr s).symm⟩
  · exact ⟨.prepFail, { s with lstate := .cold }, { Untouched.refl s with }, (finish_failedPrepare s).symm⟩
  · exact ⟨.ok, s, Untouched.refl s, rfl⟩
  · exact ⟨.ok, prepared variant m s, { Untouched.refl s with }, rfl⟩
  · exact ⟨.ok, bodyReset s, { Untouched.refl s with }, rfl⟩
  · exact ⟨.ok, pipelineBody i s, untouched_pipelineBody i s, rfl⟩

theorem exec_prepare_of_some {s : State} {v m : Nat} {variant : Variant} (h : preparable s v m = some variant) :
    exec (.prepare v m) s = .next (finish .ok (prepared variant m s)) := by
  show execPrepare v m s = _
  rw [execPrepare, h]

theorem exec_prepare_of_none {s : State} {v m : Nat} (h : preparable s v m = none) :
    exec (.prepare v m) s = .next { refusedWith .prepFail s with lstate := .cold } := by
  show execPrepare v m s = _
  rw [execPrepare, h]
  exact congrArg _ (finish_failedPrepare s)

/-- A command is refused for the lifecycle state, for its operands, or as a `PREPARE` that cannot be served. -/
theorem exec_refused {i : Instr} {s t : State} (h : exec i s = .next t) (hresult : t.result ≠ .ok) :
    t = refusedWith .notPrepared s ∨ t = refusedWith .badArg s
    ∨ t = { refusedWith .prepFail s with lstate := .cold } ∧ ∃ v m, i = .prepare v m := by
  by_cases hneeds : needsPrepared i = true
  · rw [exec_eq_pipelineCommand s hneeds] at h
    rcases pipelineCommand_cases h with ⟨-, ht⟩ | ⟨-, -, ht⟩ | ⟨-, -, rfl⟩
    · exact .inl ht
    · exact .inr (.inl ht)
    · exact absurd rfl hresult
  · cases i with
    | nop =>
      cases h
      exact absurd rfl hresult
    | reset =>
      cases h
      exact absurd rfl hresult
    | prepare v m =>
      cases hprep : preparable s v m with
      | some variant =>
        rw [exec_prepare_of_some hprep] at h
        cases h
        exact absurd rfl hresult
      | none =>
        rw [exec_prepare_of_none hprep] at h
        cases h
        exact .inr (.inr ⟨rfl, v, m, rfl⟩)
    | _ => exact absurd rfl hneeds

/-! ### What changes `LSTATE` -/

/-- The lifecycle table of 47_facade.md R228, for commands. -/
theorem exec_changes_lstate {i : Instr} {s t : State} (h : exec i s = .next t) (hne : t.lstate ≠ s.lstate) :
    (∃ v m, i = .prepare v m ∧ (t.lstate = .warming ∧ t.result = .ok ∨ t.lstate = .cold ∧ t.result = .prepFail))
    ∨ i = .reset ∧ t.lstate = .cold
    ∨ s.lstate = .warming ∧ t.lstate = .steady ∧ s.cfg.lat ≤ t.produced.toNat
        ∧ (i = .olaw ∨ i = .frame ∨ ∃ n, i = .process n) := by
  rcases exec_cases h with ⟨_, -, rfl⟩ | ⟨⟨v, m, rfl⟩, rfl⟩ | ⟨-, rfl⟩ | ⟨v, m, _, rfl, -, rfl⟩ | ⟨rfl, rfl⟩
    | ⟨-, -, rfl⟩
  · exact absurd rfl hne
  · exact .inl ⟨v, m, rfl, .inr ⟨rfl, rfl⟩⟩
  · exact absurd rfl hne
  · exact .inl ⟨v, m, rfl, .inl ⟨rfl, rfl⟩⟩
  · exact .inr (.inl ⟨rfl, rfl⟩)
  · rcases (warmsUp_pipelineBody i s).lstate with hsame | ⟨hwarming, hsteady, hlat⟩
    · exact absurd hsame hne
    · refine .inr (.inr ⟨hwarming, hsteady, hlat, ?_⟩)
      by_contra hother
      simp only [not_or, not_exists] at hother
      obtain ⟨holaw, hframe, hprocess⟩ := hother
      exact hne (holdsProgress_pipelineBody s holaw hframe hprocess).lstate

theorem plainWrite_lstate (addr : BitVec 22) (v : Word) (s : State) : (plainWrite addr v s).lstate = s.lstate := by
  rcases plainWrite_cases addr v s with ⟨-, heq⟩ | ⟨i, -, heq⟩ | ⟨i, -, -, heq⟩ | heq
  · rw [heq]
  · rw [heq]
    rcases paramWrite_cases i v s with ⟨-, heq'⟩ | ⟨-, -, heq'⟩ | ⟨-, -, heq'⟩ <;> simp [heq']
  · rw [heq]
    rfl
  · rw [heq]

/-- The two accesses that write a word to `CMD` (10_state.md R62; 20_memory.md R82). -/
theorem commandAccess {a : HostAccess} {addr : BitVec 22} {v : Word} (hzero : addr.toNat = 0x000)
    (h : a = .write addr v ∨ ∃ b : BitVec 24, a = .busWrite b 4 v ∧ addr = BitVec.ofNat 22 (b.toNat / 4)
      ∧ b.toNat % 4 = 0) :
    a = .write 0x000 v ∨ a = .busWrite 0x000 4 v := by
  rcases h with rfl | ⟨b, rfl, rfl, haligned⟩
  · exact .inl (by rw [BitVec.eq_of_toNat_eq (y := (0x000 : BitVec 22)) hzero])
  · rw [BitVec.toNat_ofNat] at hzero
    have hb : b = 0x000 := BitVec.eq_of_toNat_eq (by
      have := b.isLt
      show b.toNat = 0
      omega)
    exact .inr (by rw [hb])

end Machine

open Machine

/-- Settles O11: whatever the body did, the end of a command counts it and keeps what the host wrote. -/
theorem everyCommandEnds : Obligations.EveryCommandEnds := by
  intro i s
  obtain ⟨t, h⟩ := exec_next i s
  obtain ⟨r, u, hu, rfl⟩ := exec_finishes h
  refine ⟨_, h, ?_, ?_, hu.arg0, hu.param, hu.pub, hu.diagPor, hu.cfg, hu.pending, hu.rdata⟩
  · rw [finish_cseq, hu.cseq]
  · rw [finish_cmderr, finish_result, hu.cmderr]

/-- Settles O12: the three refusals, each with its whole next state. -/
theorem refusedCommandOnlyCounts : Obligations.RefusedCommandOnlyCounts := by
  intro i s t h hresult
  rcases exec_refused h hresult with rfl | rfl | hprepare
  · exact .inl ⟨rfl, .inl rfl⟩
  · exact .inl ⟨rfl, .inr rfl⟩
  · exact .inr hprepare

/-- Settles O14: a read, a plain write and an illegal word keep `LSTATE`; hardware reset and the commands
remain. -/
theorem lifecycleChangesAreListed : Obligations.LifecycleChangesAreListed := by
  intro a s t h hne
  rcases access_cases a s with ⟨w, heq⟩ | ⟨addr, w, ha, heq⟩ | heq | ⟨hreset, heq⟩
  · rw [heq] at h
    cases h
    exact absurd rfl hne
  · rw [heq] at h
    rcases memWrite_cases addr w s with ⟨hzero, i, hdec, hm⟩ | ⟨-, _, -, hm⟩ | ⟨-, hm⟩
    · exact .inr ⟨w, i, commandAccess hzero ha, hdec, exec_changes_lstate (hm ▸ h) hne⟩
    · rw [hm] at h
      cases h
      exact absurd rfl hne
    · rw [hm] at h
      cases h
      exact absurd (plainWrite_lstate addr w s) hne
  · rw [heq] at h
    cases h
    exact absurd rfl hne
  · rw [heq] at h
    cases h
    exact .inl ⟨hreset, rfl⟩

/-- Settles O17: `NOP` is the end of a command and nothing else. -/
theorem nopOnlyCounts : Obligations.NopOnlyCounts := by
  intro s
  show Host.Outcome.next (finish .ok s) = _
  rw [finish_ok]

/-- Settles O18: the operands are in range of R224, and clearing what is cleared again changes nothing. -/
theorem prepareStartsWarming : Obligations.PrepareStartsWarming := by
  intro s v variant m hwf hv hlow hhigh harg
  have hprep : preparable s v m = some variant := preparable_eq_some.2 ⟨hv.symm, hlow, hhigh, harg⟩
  have hagain : preparable (finish .ok (prepared variant m s)) v m = some variant := hprep
  have hbuf := (Cfg.isBuild hwf).bufHigh
  refine ⟨_, exec_prepare_of_some hprep, ?_, ?_, ?_⟩
  · show (BitVec.ofNat 21 m).toNat = m
    rw [BitVec.toNat_ofNat, Nat.mod_eq_of_lt (by omega)]
  · rw [finish_ok]
    rfl
  · rw [exec_prepare_of_some hagain, finish_ok, finish_ok]
    rfl

/-- Settles O19: none of the four is a `PREPARE` that R224 serves. -/
theorem unservablePrepareFails : Obligations.UnservablePrepareFails := by
  intro s v m hbad
  refine exec_prepare_of_none (Option.eq_none_iff_forall_ne_some.2 fun variant hprep => ?_)
  obtain ⟨rfl, hlow, hhigh, harg⟩ := preparable_eq_some.1 hprep
  have hcode := Variant.code_lt variant
  rcases hbad with hv | hm | hm | hzero
  · omega
  · omega
  · omega
  · exact harg hzero

/-- Settles O20: `RESET` clears as R227 lists, then goes to `Cold`. -/
theorem resetClearsToCold : Obligations.ResetClearsToCold := by
  intro s
  show Host.Outcome.next (finish .ok (bodyReset s)) = _
  rw [finish_ok]
  rfl

end Sys2Proof
end

section
/-! SUPPORT. The composite commands `FRAME` and `PROCESS` against the commands they are made of (47_facade.md R222,
R226; 00_scope.md R23): no body looks at how earlier commands ended, so a run of commands and the run of their bodies
differ in `RESULT` and `CSEQ` alone. -/

namespace Sys2Proof

namespace Machine

/-! ### Bodies do not look at how commands ended -/

/-- `f` neither reads nor writes `RESULT` and `CSEQ`. -/
def IgnoresEnd (f : State → State) : Prop := ∀ n s, f (endedAt n s) = endedAt n (f s)

theorem IgnoresEnd.comp {f g : State → State} (hg : IgnoresEnd g) (hf : IgnoresEnd f) :
    IgnoresEnd fun s => g (f s) := fun n s => (congrArg g (hf n s)).trans (hg n (f s))

theorem IgnoresEnd.forRange {f : Nat → State → State} (h : ∀ k, IgnoresEnd (f k)) (m : Nat) :
    IgnoresEnd (forRange m f) := fun n _ => (forRange_map (endedAt n) fun k t _ => (h k n t).symm).symm

theorem IgnoresEnd.forSpan {f : Nat → State → State} (h : ∀ k, IgnoresEnd (f k)) (lo hi : Nat) :
    IgnoresEnd (forSpan lo hi f) := IgnoresEnd.forRange (fun j => h (lo + j)) _

theorem ignoresEnd_ite {c : State → Prop} [∀ s, Decidable (c s)] {f g : State → State}
    (hc : ∀ n s, c (endedAt n s) ↔ c s) (hf : IgnoresEnd f) (hg : IgnoresEnd g) :
    IgnoresEnd fun s => if c s then f s else g s := by
  intro n s
  dsimp only
  rw [apply_ite (endedAt n), if_congr (hc n s) (hf n s) (hg n s)]

theorem ignoresEnd_id : IgnoresEnd fun s => s := fun _ _ => rfl

theorem ignoresEnd_raiseGuard (g : Guard) : IgnoresEnd (raiseGuard g) := by
  intro n s
  cases g <;> rfl

theorem ignoresEnd_stages (inv : Bool) : IgnoresEnd (stages inv) := by
  intro n s
  refine IgnoresEnd.forSpan (fun stage => ?_) 1 s.cfg.log2n n s
  exact fun n s => IgnoresEnd.forRange (fun q => fun _ _ => rfl) s.cfg.h n s

theorem ignoresEnd_fftf : IgnoresEnd bodyFftf :=
  IgnoresEnd.comp (g := bodyZim) (fun _ _ => rfl) ((ignoresEnd_stages false).comp (f := bodyLoadx) fun _ _ => rfl)

theorem ignoresEnd_ffti : IgnoresEnd bodyFfti :=
  IgnoresEnd.comp (g := bodyScaley) (fun _ _ => rfl) ((ignoresEnd_stages true).comp (f := bodyBitrev) fun _ _ => rfl)

theorem ignoresEnd_acceptFrame : IgnoresEnd acceptFrame :=
  ignoresEnd_ite (c := fun s => frozen s = true) (fun _ _ => Iff.rfl) ignoresEnd_id
    (ignoresEnd_ite (c := fun s => frameValid s = true) (fun _ _ => Iff.rfl) (fun _ _ => rfl)
      (ignoresEnd_raiseGuard _))

theorem ignoresEnd_depositBin (ratio : F) (k : Nat) : IgnoresEnd (depositBin ratio k) :=
  ignoresEnd_ite (c := fun s => 0 ≤ synthBin ratio k ∧ synthBin ratio k ≤ (s.cfg.h : Int)) (fun _ _ => Iff.rfl)
    (fun _ _ => rfl) ignoresEnd_id

theorem ignoresEnd_mapBins : IgnoresEnd mapBins := by
  have hdeposits : IgnoresEnd fun s => forRange (s.cfg.h + 1) (depositBin (pitchRatio s)) (clearSynthBins s) :=
    fun n s => IgnoresEnd.forRange (ignoresEnd_depositBin (pitchRatio s)) (s.cfg.h + 1) n (clearSynthBins s)
  exact IgnoresEnd.comp (g := clearSynthDc) (fun _ _ => rfl) hdeposits

theorem ignoresEnd_gateBins : IgnoresEnd gateBins :=
  ignoresEnd_ite (c := fun s => s.variant = .gate) (fun _ _ => Iff.rfl) (fun _ _ => rfl) ignoresEnd_id

theorem ignoresEnd_modify : IgnoresEnd bodyModify :=
  IgnoresEnd.comp (g := setHop) (fun _ _ => rfl)
    (ignoresEnd_gateBins.comp (ignoresEnd_mapBins.comp ignoresEnd_acceptFrame))

theorem ignoresEnd_choosePhase (k : Nat) : IgnoresEnd (choosePhase k) :=
  ignoresEnd_ite (c := fun s => s.variant = .smear ∧ 1 ≤ k ∧ k + 1 ≤ s.cfg.h) (fun _ _ => Iff.rfl) (fun _ _ => rfl)
    fun _ _ => rfl

theorem ignoresEnd_herm : IgnoresEnd bodyHerm := by
  have hbin (k : Nat) : IgnoresEnd fun s => rotateBin k (choosePhase k s) :=
    IgnoresEnd.comp (g := rotateBin k) (fun _ _ => rfl) (ignoresEnd_choosePhase k)
  have hbins : IgnoresEnd fun s => forRange (s.cfg.h + 1) (fun k s => rotateBin k (choosePhase k s)) s :=
    fun n s => IgnoresEnd.forRange hbin (s.cfg.h + 1) n s
  have hmirror : IgnoresEnd fun s => forSpan (s.cfg.h + 1) (s.cfg.n - 1) mirrorBin s :=
    fun n s => IgnoresEnd.forSpan (fun _ _ _ => rfl) (s.cfg.h + 1) (s.cfg.n - 1) n s
  exact hmirror.comp (IgnoresEnd.comp (g := forceReal) (fun _ _ => rfl) hbins)

theorem ignoresEnd_accumulate : IgnoresEnd accumulate :=
  ignoresEnd_ite (c := fun s => frameFinite s = true) (fun _ _ => Iff.rfl) (fun _ _ => rfl) (ignoresEnd_raiseGuard _)

theorem ignoresEnd_settle : IgnoresEnd settle :=
  ignoresEnd_ite (c := fun s => s.lstate = .warming ∧ s.cfg.lat ≤ s.produced.toNat) (fun _ _ => Iff.rfl)
    (fun _ _ => rfl) ignoresEnd_id

theorem ignoresEnd_olaw : IgnoresEnd bodyOlaw :=
  ignoresEnd_ite (c := fun s => ringFull s = true) (fun _ _ => Iff.rfl) (ignoresEnd_raiseGuard _)
    (ignoresEnd_settle.comp (IgnoresEnd.comp (g := advanceWriter) (fun _ _ => rfl) ignoresEnd_accumulate))

theorem ignoresEnd_emitSample (i : Nat) (v : F) : IgnoresEnd (emitSample i v) :=
  ignoresEnd_ite (c := fun _ => v.isFinite = true) (fun _ _ => Iff.rfl) (fun _ _ => rfl) fun _ _ => rfl

theorem ignoresEnd_pop (i : Nat) : IgnoresEnd (bodyPop i) :=
  ignoresEnd_ite (c := fun s => 0 < s.preroll) (fun _ _ => Iff.rfl) (fun _ _ => rfl)
    (ignoresEnd_ite (c := fun s => s.avail = 0) (fun _ _ => Iff.rfl) (fun _ _ => rfl)
      fun n s => ignoresEnd_emitSample i _ n (consumeCell s))

theorem ignoresEnd_frameParts : IgnoresEnd frameParts :=
  ignoresEnd_olaw.comp <| ignoresEnd_ffti.comp <| ignoresEnd_herm.comp <|
    IgnoresEnd.comp (g := bodyAccum) (fun _ _ => rfl) <| ignoresEnd_modify.comp <|
    IgnoresEnd.comp (g := bodyTrack) (fun _ _ => rfl) <| IgnoresEnd.comp (g := bodyPolar) (fun _ _ => rfl) <|
    ignoresEnd_fftf.comp (f := bodyExtract) fun _ _ => rfl

theorem countFrame_endedAt (n : Word) (s : State) :
    { endedAt n s with framecnt := (endedAt n s).framecnt + 1 } = endedAt n { s with framecnt := s.framecnt + 1 } := rfl

theorem ignoresEnd_frame : IgnoresEnd bodyFrame := by
  intro n s
  rw [bodyFrame_eq, bodyFrame_eq, ignoresEnd_frameParts n s, countFrame_endedAt]

theorem ignoresEnd_push (i : Nat) : IgnoresEnd (bodyPush i) := fun _ _ => rfl

theorem ignoresEnd_frameIfDue : IgnoresEnd frameIfDue :=
  ignoresEnd_ite (c := fun s => s.hopcnt = s.cfg.ha) (fun _ _ => Iff.rfl) ignoresEnd_frame ignoresEnd_id

theorem ignoresEnd_processSample (i : Nat) : IgnoresEnd (processSample i) :=
  (ignoresEnd_pop i).comp (ignoresEnd_frameIfDue.comp (ignoresEnd_push i))

theorem ignoresEnd_process (n : Nat) : IgnoresEnd (bodyProcess n) :=
  (IgnoresEnd.forRange ignoresEnd_processSample n).comp (f := latch) fun _ _ => rfl

theorem ignoresEnd_pipelineBody (i : Instr) : IgnoresEnd (pipelineBody i) := by
  cases i with
  | process n => exact ignoresEnd_process n
  | frame => exact ignoresEnd_frame
  | push k => exact ignoresEnd_push k
  | fftf => exact ignoresEnd_fftf
  | ffti => exact ignoresEnd_ffti
  | modify => exact ignoresEnd_modify
  | herm => exact ignoresEnd_herm
  | olaw => exact ignoresEnd_olaw
  | pop k => exact ignoresEnd_pop k
  | nop | prepare | reset | extract | loadx | bitrev | bfly | zim | scaley | polar | track | accum =>
    exact fun _ _ => rfl

/-! ### Accepted commands after accepted commands -/

theorem endedAt_endedAt (m n : Word) (s : State) : endedAt m (endedAt n s) = endedAt m s := rfl

theorem operandsOk_endedAt (i : Instr) (n : Word) (s : State) : operandsOk (endedAt n s) i = operandsOk s i := by
  cases i <;> rfl

/-- A command accepted after another one: its body on what the other's body left. -/
theorem exec_after {i : Instr} {s : State} (hneeds : needsPrepared i = true) (hwarm : s.lstate ≠ .cold)
    (hargs : operandsOk s i = true) (n : Word) : ∃ m, exec i (endedAt n s) = .next (endedAt m (pipelineBody i s)) := by
  refine ⟨(pipelineBody i (endedAt n s)).cseq + 1, ?_⟩
  have hargs' : operandsOk (endedAt n s) i = true := (operandsOk_endedAt i n s).trans hargs
  rw [exec_accepted (s := endedAt n s) hneeds hwarm hargs', finish_ok_eq_endedAt, ignoresEnd_pipelineBody i n s,
    endedAt_endedAt]

/-- An accepted command from any state, with the `CSEQ` it leaves. -/
theorem exec_first {i : Instr} {s : State} (hneeds : needsPrepared i = true) (hwarm : s.lstate ≠ .cold)
    (hargs : operandsOk s i = true) : exec i s = .next (endedAt (s.cseq + 1) (pipelineBody i s)) :=
  exec_endedAt hneeds hwarm hargs (untouched_pipelineBody i s).cseq

/-- The bodies of a list of commands, one after the other. -/
def runBodies (is : List Instr) (s : State) : State := is.foldl (fun t i => pipelineBody i t) s

theorem runBodies_nil (s : State) : runBodies [] s = s := rfl

theorem runBodies_cons (i : Instr) (is : List Instr) (s : State) :
    runBodies (i :: is) s = runBodies is (pipelineBody i s) := rfl

/-- A list of commands with no operand check runs as their bodies. -/
theorem execAll_after {is : List Instr} {s : State}
    (his : ∀ i ∈ is, needsPrepared i = true ∧ ∀ t, operandsOk t i = true) (hwarm : s.lstate ≠ .cold) (n : Word) :
    ∃ m, execAll is (endedAt n s) = some (endedAt m (runBodies is s)) := by
  induction is generalizing s n with
  | nil => exact ⟨n, rfl⟩
  | cons i is ih =>
    obtain ⟨⟨hneeds, hargs⟩, his⟩ := List.forall_mem_cons.1 his
    obtain ⟨m, hm⟩ := exec_after hneeds hwarm (hargs s) n
    rw [execAll_cons _ hm, runBodies_cons]
    exact ih his ((warmsUp_pipelineBody i s).warm hwarm) m

/-- The same from any state of a prepared engine; the first command of the list sets `RESULT`. -/
theorem execAll_bodies {is : List Instr} {s : State} (hne : is ≠ [])
    (his : ∀ i ∈ is, needsPrepared i = true ∧ ∀ t, operandsOk t i = true) (hwarm : s.lstate ≠ .cold) :
    ∃ m, execAll is s = some (endedAt m (runBodies is s)) := by
  cases is with
  | nil => exact absurd rfl hne
  | cons i is =>
    obtain ⟨⟨hneeds, hargs⟩, his⟩ := List.forall_mem_cons.1 his
    rw [execAll_cons _ (exec_first hneeds hwarm (hargs s)), runBodies_cons]
    exact execAll_after his ((warmsUp_pipelineBody i s).warm hwarm) _

/-! ### `FRAME` -/

theorem frameCommands_accepted : ∀ i ∈ frameCommands, needsPrepared i = true ∧ ∀ t, operandsOk t i = true := by
  simp [frameCommands, needsPrepared, operandsOk]

theorem frameParts_eq_bodies (s : State) : frameParts s =
    pipelineBody .olaw (pipelineBody .ffti (pipelineBody .herm (pipelineBody .accum (pipelineBody .modify
      (pipelineBody .track (pipelineBody .polar (pipelineBody .fftf (pipelineBody .extract s)))))))) := rfl

theorem runBodies_frameCommands (s : State) : runBodies frameCommands s = frameParts s := by
  rw [frameParts_eq_bodies, frameCommands]
  repeat rw [runBodies_cons]
  rw [runBodies_nil]

theorem execAll_frameCommands {s : State} (hwarm : s.lstate ≠ .cold) :
    ∃ m, execAll frameCommands s = some (endedAt m (frameParts s)) := by
  rw [← runBodies_frameCommands]
  exact execAll_bodies (by decide) frameCommands_accepted hwarm

theorem frameParts_framecnt (s : State) : (frameParts s).framecnt = s.framecnt := by
  have hwrites : FrameWrites s (frameParts s) := frameWrites_parts s
  obtain ⟨_, _, _, _, _, _, _, _, _, _, _, _, _, _, _, _, _, _, _, _, _, _, _, _, h⟩ := hwrites
  rw [h]

/-! ### `PROCESS` -/

theorem frameIfDue_fixed (s : State) : (frameIfDue s).maxblk = s.maxblk ∧ (frameIfDue s).act = s.act := by
  unfold frameIfDue
  split
  · obtain ⟨_, ⟨_, _, _, _, _, _, _, _, _, _, _, _, _, _, _, _, _, _, _, _, _, _, _, _, rfl⟩, hframe⟩ :=
      bodyFrame_writes s
    rw [hframe]
    exact ⟨rfl, rfl⟩
  · exact ⟨rfl, rfl⟩

theorem processSample_act (i : Nat) (s : State) : (processSample i s).act = s.act := by
  obtain ⟨_, _, _, _, _, _, _, _, hpop⟩ := bodyPop_writes i (frameIfDue (bodyPush i s))
  rw [processSample, hpop]
  exact (frameIfDue_fixed (bodyPush i s)).2

theorem bodyProcess_maxblk (n : Nat) (s : State) : (bodyProcess n s).maxblk = s.maxblk :=
  forRange_fixed State.maxblk fun i t _ => (processSample_fixed i t).2

/-- `PROCESS` runs with the parameters published when it began (R222). -/
theorem bodyProcess_act (n : Nat) (s : State) : (bodyProcess n s).act = s.pub :=
  forRange_fixed State.act fun i t _ => processSample_act i t

theorem frameIfDue_buf (s : State) : (frameIfDue s).buf = s.buf := by
  unfold frameIfDue
  split
  · exact bodyFrame_buf s
  · rfl

/-- One sample of the block loop stores in its own element of `BUF` only (R222). -/
theorem processSample_buf {i a : Nat} (s : State) (h : bufByteAddr i 3 < a) :
    Memory.readByte (processSample i s).buf a = Memory.readByte s.buf a := by
  obtain ⟨w, _, _, _, _, _, _, _, hpop⟩ := bodyPop_writes i (frameIfDue (bodyPush i s))
  rw [processSample, hpop]
  show Memory.readByte (Memory.writeWord (frameIfDue (bodyPush i s)).buf i w) a = _
  rw [Memory.readByte_writeWord, if_neg (by omega), frameIfDue_buf]
  rfl

/-- `PROCESS n` leaves `BUF[n..]` (R222). -/
theorem bodyProcess_buf {n a : Nat} (s : State) (h : bufByteAddr n 0 ≤ a) :
    Memory.readByte (bodyProcess n s).buf a = Memory.readByte s.buf a := by
  refine forRange_fixed (fun t : State => Memory.readByte t.buf a) fun i t hi => processSample_buf t ?_
  simp only [bufByteAddr] at h ⊢
  omega

theorem exec_process_endedAt {n : Nat} {s : State} (hwarm : s.lstate ≠ .cold) (hn : n ≤ s.maxblk.toNat) :
    exec (.process n) s = .next (endedAt (s.cseq + 1) (bodyProcess n s)) :=
  exec_first rfl hwarm (decide_eq_true hn)

/-- The frame of a sample as a command: `FRAME` where the hop is complete, else none. -/
theorem exec_frameIfDue {s : State} (hwarm : s.lstate ≠ .cold) (n : Word) : ∃ w m,
    (if s.hopcnt = s.cfg.ha then exec .frame (endedAt n s) = .next w else w = endedAt n s)
    ∧ w = endedAt m (frameIfDue s) := by
  unfold frameIfDue
  split
  · obtain ⟨m, hm⟩ := exec_after (i := .frame) rfl hwarm rfl n
    exact ⟨_, m, hm, rfl⟩
  · exact ⟨_, n, rfl, rfl⟩

end Machine

open Machine

/-- Settles O49: the sequence runs as the nine bodies `FRAME` runs, and only `FRAME` counts the frame. -/
theorem frameIsItsParts : Obligations.FrameIsItsParts := by
  intro s hwarm
  obtain ⟨m, hm⟩ := execAll_frameCommands hwarm
  refine ⟨_, hm, ?_⟩
  rw [exec_first (i := .frame) rfl hwarm rfl, ← frameParts_framecnt s]
  show Host.Outcome.next (endedAt (s.cseq + 1) (bodyFrame s)) = _
  rw [bodyFrame_eq]
  rfl

/-- Settles O50: `PROCESS (n + 1)` is `PROCESS n` and one more sample, whose three parts are accepted one after the
other. -/
theorem processLoopsOverSamples : Obligations.ProcessLoopsOverSamples := by
  intro s hwarm
  refine ⟨exec_process_endedAt hwarm (Nat.zero_le _), fun n hn => ?_⟩
  have hprocess := exec_process_endedAt hwarm hn.le
  have hlonger := exec_process_endedAt hwarm (Nat.succ_le_of_lt hn)
  have hblock : n < (bodyProcess n s).maxblk.toNat := by rwa [bodyProcess_maxblk]
  have hdone : (bodyProcess n s).lstate ≠ .cold := (warmsUp_process n s).warm hwarm
  have hcfg : (bodyProcess n s).cfg = s.cfg := (untouched_process n s).cfg
  obtain ⟨k, hpush⟩ := exec_after (i := .push n) rfl hdone (decide_eq_true hblock) (s.cseq + 1)
  have hpushed : (bodyPush n (bodyProcess n s)).lstate ≠ .cold := (warmsUp_push n _).warm hdone
  obtain ⟨w, l, hframe, rfl⟩ := exec_frameIfDue hpushed k
  have hframed := (warmsUp_frameIfDue (bodyPush n (bodyProcess n s))).warm hpushed
  have hblock' : n < (frameIfDue (bodyPush n (bodyProcess n s))).maxblk.toNat := by
    rw [(frameIfDue_fixed _).1]
    exact hblock
  obtain ⟨m, hpop⟩ := exec_after (i := .pop n) rfl hframed (decide_eq_true hblock') l
  refine ⟨_, _, _, _, hprocess, hpush, ?_, hpop, hlonger, rfl, bodyProcess_act (n + 1) s,
    fun a => bodyProcess_buf (n := n + 1) s⟩
  rw [← hcfg]
  exact hframe

end Sys2Proof
end

section
/-! SUPPORT. The parameter mappings (47_facade.md R230 to R238): intervals of data with a clear sign through the basic
operations, and from them that the mappings are the curves the rules draw, in every build. -/

namespace Sys2Proof

namespace F

/-! ### Intervals of data that are not negative -/

/-- A finite datum with a clear sign, from `lo` to `hi` counts of 2^-149. -/
def Between (lo hi : Nat) (a : F) : Prop := ∃ m : Mag, a = .fin false m ∧ lo ≤ m.units ∧ m.units ≤ hi

/-- `k` counts of 2^-149 are a finite datum. -/
def IsDatum (k : Nat) : Prop := ∃ m : Mag, m.units = k

theorem isDatum_zero : IsDatum 0 := ⟨⟨0, by decide⟩, rfl⟩

/-- An integer of at most 24 bits at a place at which it does not overflow. -/
theorem isDatum {v : Nat} (t k : Nat) (hv : v = t * 2 ^ k) (ht : t ≤ 2 ^ 24) (hfin : v < 2 ^ 200) : IsDatum v :=
  hv ▸ exists_units ht (by omega)

theorem units_injective {m n : Mag} (h : m.units = n.units) : m = n :=
  Fin.ext (bitUnits_strictMono.injective h)

theorem quarter_between : Between (2 ^ 147) (2 ^ 147) quarter :=
  ⟨⟨0x3E800000, by decide⟩, by decide +kernel, by decide +kernel, by decide +kernel⟩

theorem half_between : Between (2 ^ 148) (2 ^ 148) half :=
  ⟨⟨0x3F000000, by decide⟩, by decide +kernel, by decide +kernel, by decide +kernel⟩

theorem one_between : Between (2 ^ 149) (2 ^ 149) one :=
  ⟨⟨0x3F800000, by decide⟩, by decide +kernel, by decide +kernel, by decide +kernel⟩

theorem oneHalf_between : Between (3 * 2 ^ 148) (3 * 2 ^ 148) oneHalf :=
  ⟨⟨0x3FC00000, by decide⟩, by decide +kernel, by decide +kernel, by decide +kernel⟩

theorem two_between : Between (2 ^ 150) (2 ^ 150) two :=
  ⟨⟨0x40000000, by decide⟩, by decide +kernel, by decide +kernel, by decide +kernel⟩

theorem four_between : Between (2 ^ 151) (2 ^ 151) four :=
  ⟨⟨0x40800000, by decide⟩, by decide +kernel, by decide +kernel, by decide +kernel⟩

theorem six_between : Between (6 * 2 ^ 149) (6 * 2 ^ 149) six :=
  ⟨⟨0x40C00000, by decide⟩, by decide +kernel, by decide +kernel, by decide +kernel⟩

theorem twelve_between : Between (12 * 2 ^ 149) (12 * 2 ^ 149) twelve :=
  ⟨⟨0x41400000, by decide⟩, by decide +kernel, by decide +kernel, by decide +kernel⟩

theorem twentyFour_between : Between (24 * 2 ^ 149) (24 * 2 ^ 149) twentyFour :=
  ⟨⟨0x41C00000, by decide⟩, by decide +kernel, by decide +kernel, by decide +kernel⟩

/-- What is at least a magnitude is narrowed to at least that magnitude. -/
theorem le_roundBits {n d b : Nat} (hd : 0 < d) (h : bitUnits b * d ≤ n) : b ≤ roundBits n d := by
  by_contra hlt
  have hfar := (roundBits_nearest (n := n) hd b).1
  have := Nat.mul_lt_mul_of_pos_right (bitUnits_strictMono (Nat.lt_of_not_le hlt)) hd
  omega

section Operations

variable {lo hi la ha lb hb : Nat} {a b : F}

theorem Between.mono (h : Between la ha a) (hlo : lo ≤ la) (hhi : ha ≤ hi) : Between lo hi a := by
  obtain ⟨m, rfl, hlow, hhigh⟩ := h
  exact ⟨m, rfl, hlo.trans hlow, hhigh.trans hhi⟩

/-- Narrowing does not leave an interval whose ends are data (00_scope.md R14). -/
theorem round_between {n d : Nat} (hd : 0 < d) (hlo : IsDatum lo) (hhi : IsDatum hi) (hlow : lo * d ≤ n)
    (hhigh : n ≤ hi * d) : Between lo hi (round false n d) := by
  obtain ⟨l, rfl⟩ := hlo
  obtain ⟨h, rfl⟩ := hhi
  have hl : l.val ≤ roundBits n d := le_roundBits hd hlow
  have hh : roundBits n d ≤ h.val := roundBits_le hd hhigh
  have hfin : roundBits n d < 0x7F800000 := hh.trans_lt h.isLt
  rw [round, dif_pos hfin]
  exact ⟨_, rfl, bitUnits_strictMono.monotone hl, bitUnits_strictMono.monotone hh⟩

theorem Between.mul (h : Between la ha a) (h' : Between lb hb b) (hlo : IsDatum lo) (hhi : IsDatum hi)
    (hlow : lo * 2 ^ 149 ≤ la * lb) (hhigh : ha * hb ≤ hi * 2 ^ 149) : Between lo hi (mul a b) := by
  obtain ⟨m, rfl, hmlow, hmhigh⟩ := h
  obtain ⟨n, rfl, hnlow, hnhigh⟩ := h'
  rw [mul_fin, Bool.xor_self]
  exact round_between (by positivity) hlo hhi (hlow.trans (Nat.mul_le_mul hmlow hnlow))
    ((Nat.mul_le_mul hmhigh hnhigh).trans hhigh)

theorem Between.add (h : Between la ha a) (h' : Between lb hb b) (hlo : IsDatum lo) (hhi : IsDatum hi)
    (hlow : lo ≤ la + lb) (hhigh : ha + hb ≤ hi) : Between lo hi (add a b) := by
  obtain ⟨m, rfl, hmlow, hmhigh⟩ := h
  obtain ⟨n, rfl, hnlow, hnhigh⟩ := h'
  rw [add_fin, finUnits_false, finUnits_false]
  split
  · refine ⟨⟨0, by decide⟩, rfl, ?_, Nat.zero_le _⟩
    show lo ≤ 0
    omega
  · rw [decide_eq_false (by omega)]
    exact round_between Nat.one_pos hlo hhi (by omega) (by omega)

/-- A difference that is not negative. -/
theorem Between.sub (h : Between la ha a) (h' : Between lb hb b) (hlo : IsDatum lo) (hhi : IsDatum hi)
    (hlow : lo + hb ≤ la) (hhigh : ha ≤ hi + lb) : Between lo hi (sub a b) := by
  obtain ⟨m, rfl, hmlow, hmhigh⟩ := h
  obtain ⟨n, rfl, hnlow, hnhigh⟩ := h'
  have hneg : finUnits true n = -(n.units : Int) := rfl
  rw [F.sub, neg, Bool.not_false, add_fin, finUnits_false, hneg]
  split
  · refine ⟨⟨0, by decide⟩, rfl, ?_, Nat.zero_le _⟩
    show lo ≤ 0
    omega
  · rw [decide_eq_false (by omega)]
    exact round_between Nat.one_pos hlo hhi (by omega) (by omega)

/-- R18's comparison of two data with a clear sign. -/
theorem lt_fin_false (m n : Mag) : lt (.fin false m) (.fin false n) = true ↔ m.units < n.units := by
  rw [lt_fin, decide_eq_true_eq, finUnits_false, finUnits_false, Nat.cast_lt]

/-- A clamp between bounds that are not negative compares with each bound (00_scope.md R18). -/
theorem clamp_eq_ite {v low high : F} (h : Between la ha v) (hlo : Between lo lo low) (hhi : Between hi hi high)
    (hle : lo ≤ hi) : clamp v low high = if lt v low then low else if lt high v then high else v := by
  obtain ⟨k, rfl, -, -⟩ := h
  obtain ⟨l, rfl, hllow, hlhigh⟩ := hlo
  obtain ⟨u, rfl, hulow, huhigh⟩ := hhi
  simp only [clamp, F.max, F.min, lt_fin_false]
  by_cases hlow : k.units < l.units
  · simp only [if_pos hlow, if_neg (show ¬ u.units < k.units by omega), lt_fin_false]
    rw [if_neg (by omega)]
  · rw [if_neg hlow]
    split <;> simp only [lt_fin_false] <;> split
    · rfl
    · rw [units_injective (m := l) (n := u) (by omega)]
    · rfl
    · rw [units_injective (m := l) (n := k) (by omega)]

/-- A clamp leaves what lies between its bounds. -/
theorem clamp_of_between {v low high : F} (h : Between lo hi v) (hlo : Between lo lo low) (hhi : Between hi hi high) :
    clamp v low high = v := by
  have hle : lo ≤ hi := by
    obtain ⟨_, -, hlow, hhigh⟩ := h
    exact hlow.trans hhigh
  rw [clamp_eq_ite h hlo hhi hle]
  obtain ⟨k, rfl, hlow, hhigh⟩ := h
  obtain ⟨l, rfl, hllow, hlhigh⟩ := hlo
  obtain ⟨u, rfl, hulow, huhigh⟩ := hhi
  simp only [lt_fin_false]
  rw [if_neg (by omega), if_neg (by omega)]

end Operations

/-- A normalized parameter has a clear sign: it is not -0 (10_state.md R42). -/
theorem isUnit_between {p : F} (h : p.isUnit = true) : Between 0 (2 ^ 149) p := by
  have hwithin := isUnit_within h
  have hmost := atMost_one_of_within hwithin
  obtain ⟨s, m, rfl⟩ := isFinite_iff.1 hmost.1
  have hle := units_le_of_atMost_fin hmost
  rw [units_oneMag] at hle
  cases s with
  | false => exact ⟨m, rfl, Nat.zero_le _, hle⟩
  | true =>
    obtain ⟨-, hrank⟩ := le_zero_iff.1 (within_iff.1 hwithin).1
    have hneg : (fin true m).rank = -(m.units : Int) := rfl
    have hzero : m = ⟨0, by decide⟩ := units_injective (show m.units = 0 by omega)
    rw [hzero] at h
    exact absurd h (by decide +kernel)

/-- A positive finite datum. -/
theorem between_of_pos {v : F} (hfin : v.isFinite = true) (hpos : lt zero v = true) : ∃ k, Between k k v := by
  obtain ⟨s, m, rfl⟩ := isFinite_iff.1 hfin
  cases s with
  | false => exact ⟨m.units, m, rfl, Nat.le_refl _, Nat.le_refl _⟩
  | true =>
    obtain ⟨-, -, hrank⟩ := lt_iff.1 hpos
    have hneg : (fin true m).rank = -(m.units : Int) := rfl
    rw [rank_zero] at hrank
    omega

/-- What is rounded from a datum with a clear sign is not negative. -/
theorem rhaz_nonneg {a : F} {lo hi : Nat} (h : Between lo hi a) : 0 ≤ rhaz a := by
  obtain ⟨m, rfl, -, -⟩ := h
  rw [rhaz, rhazFin, if_neg Bool.false_ne_true]
  exact Int.natCast_nonneg _

/-- Taking `c` from a datum of at most 2 `c` leaves at most `c` in magnitude. -/
theorem sub_atMost {a : F} {c : Mag} (h : Between 0 (2 * c.units) a) : AtMost c (sub a (.fin false c)) := by
  obtain ⟨m, rfl, -, hhigh⟩ := h
  have hneg : finUnits true c = -(c.units : Int) := rfl
  rw [F.sub, neg, Bool.not_false, add_fin, finUnits_false, hneg]
  split
  · exact atMost_fin (k := ⟨0, by decide⟩) (Nat.zero_le _)
  · exact round_atMost Nat.one_pos (by omega)

/-- A quotient by a bound of the dividend is at most 1 in magnitude. -/
theorem div_atMost_one {a : F} {c : Mag} (h : AtMost c a) (hc : 0 < c.units) :
    AtMost NumRef.oneMag (div a (.fin false c)) := by
  obtain ⟨s, m, rfl⟩ := isFinite_iff.1 h.1
  have hne : c.val ≠ 0 := by
    intro hzero
    rw [show c = ⟨0, by decide⟩ from Fin.ext hzero] at hc
    exact absurd hc (by decide)
  rw [F.div, if_neg hne]
  refine round_atMost hc ?_
  rw [units_oneMag, Nat.mul_comm]
  exact Nat.mul_le_mul_left _ (units_le_of_atMost_fin h)

theorem within_of_atMost_one {a : F} (h : AtMost NumRef.oneMag a) : within (neg .one) .one a = true := by
  have hfin : one.isFinite = true := rfl
  rw [within_iff, le_iff_rank (by rwa [isFinite_neg]) h.1, le_iff_rank h.1 hfin, rank_neg hfin, rank_one, ← abs_le]
  have hle := h.2
  rw [units_oneMag] at hle
  exact_mod_cast hle

end F

namespace Machine

/-! ### The curves -/

/-- Below 0.5 the ratio goes from 0.25 towards 1 (47_facade.md R231). -/
theorem stretchLow_between {p : F} (h : F.Between 0 (2 ^ 148) p) :
    F.Between (2 ^ 147) (2 ^ 149) (F.add .quarter (F.mul .oneHalf p)) := by
  have hpart : F.Between 0 (3 * 2 ^ 147) (F.mul .oneHalf p) :=
    F.oneHalf_between.mul h F.isDatum_zero (F.isDatum 3 147 rfl (by decide) (by norm_num)) (by norm_num) (by norm_num)
  exact F.quarter_between.add hpart (F.isDatum 1 147 (by norm_num) (by decide) (by norm_num))
    (F.isDatum 1 149 (by norm_num) (by decide) (by norm_num)) (by norm_num) (by norm_num)

/-- From 0.5 on the ratio goes from 1 to 4 (47_facade.md R231). -/
theorem stretchHigh_between {p : F} (h : F.Between (2 ^ 148) (2 ^ 149) p) :
    F.Between (2 ^ 149) (2 ^ 151) (F.add .one (F.mul .six (F.sub p .half))) := by
  have hover : F.Between 0 (2 ^ 148) (F.sub p .half) :=
    h.sub F.half_between F.isDatum_zero (F.isDatum 1 148 (by norm_num) (by decide) (by norm_num)) (by norm_num)
      (by norm_num)
  have hpart : F.Between 0 (3 * 2 ^ 149) (F.mul .six (F.sub p .half)) :=
    F.six_between.mul hover F.isDatum_zero (F.isDatum 3 149 rfl (by decide) (by norm_num)) (by norm_num) (by norm_num)
  exact F.one_between.add hpart (F.isDatum 1 149 (by norm_num) (by decide) (by norm_num))
    (F.isDatum 1 151 (by norm_num) (by decide) (by norm_num)) (by norm_num) (by norm_num)

/-- The two linear pieces of STRETCH (47_facade.md R231). -/
def stretchLines (p : F) : F :=
  if F.lt p .half then F.add .quarter (F.mul .oneHalf p) else F.add .one (F.mul .six (F.sub p .half))

theorem stretchLines_between {p : F} (h : p.isUnit = true) : F.Between (2 ^ 147) (2 ^ 151) (stretchLines p) := by
  obtain ⟨m, rfl, -, hhigh⟩ := F.isUnit_between h
  obtain ⟨n, hn, hnlow, hnhigh⟩ := F.half_between
  have hlt : F.lt (.fin false m) .half = true ↔ m.units < 2 ^ 148 := by
    rw [hn, F.lt_fin_false, Nat.le_antisymm hnhigh hnlow]
  unfold stretchLines
  split
  · next hbelow =>
    exact (stretchLow_between ⟨m, rfl, Nat.zero_le _, (hlt.1 hbelow).le⟩).mono (by norm_num) (by norm_num)
  · next habove =>
    exact (stretchHigh_between ⟨m, rfl, Nat.le_of_not_lt (mt hlt.2 habove), hhigh⟩).mono (by norm_num) (by norm_num)

theorem mapStretch_eq_ite (c : Cfg) (p : F) : mapStretch c p =
    if inSnapBand c p then .one else F.clamp (stretchLines p) .quarter .four := rfl

theorem stretchCurve_eq_ite (c : Cfg) (p : F) : stretchCurve c p =
    if inSnapBand c p then .one else stretchLines p := rfl

/-- The last clamp of STRETCH never binds (47_facade.md R238). -/
theorem mapStretch_eq_curve (c : Cfg) {p : F} (h : p.isUnit = true) : mapStretch c p = stretchCurve c p := by
  rw [mapStretch_eq_ite, stretchCurve_eq_ite,
    F.clamp_of_between (stretchLines_between h) F.quarter_between F.four_between]

/-- The octave of a normalized parameter lies in [-1, 1], where R15 (d) speaks of `fexp2` (47_facade.md R232). -/
theorem octave_within {p : F} (h : p.isUnit = true) :
    F.within (F.neg .one) .one (F.div (F.sub (F.mul .twentyFour p) .twelve) .twelve) = true := by
  obtain ⟨c, hc, hlow, hhigh⟩ := F.twelve_between
  have hsemis : F.Between 0 (2 * c.units) (F.mul .twentyFour p) := by
    rw [Nat.le_antisymm hhigh hlow]
    exact F.twentyFour_between.mul (F.isUnit_between h) F.isDatum_zero
      (F.isDatum 24 149 (by norm_num) (by decide) (by norm_num)) (by norm_num) (by norm_num)
  rw [hc]
  exact F.within_of_atMost_one (F.div_atMost_one (F.sub_atMost hsemis) (lt_of_lt_of_le (by norm_num) hlow))

theorem mapPitch_eq_curve (c : Cfg) {p : F} (h : p.isUnit = true) : mapPitch c p = pitchCurve c p := by
  obtain ⟨-, -, -, -, -, -, -, -, -, -, -, hexp⟩ := numericRecordsMeetRanges c.num
  obtain ⟨hfin, hpos⟩ := hexp _ (octave_within h)
  obtain ⟨_, hratio⟩ := F.between_of_pos hfin hpos
  unfold mapPitch pitchCurve
  dsimp only
  rw [F.clamp_eq_ite hratio F.half_between F.two_between (by norm_num)]
  rfl

/-- The bin of a normalized parameter is rounded from a product that is not negative (47_facade.md R235, R236). -/
theorem mapBinFraction_eq_curve {c : Cfg} (hc : c.IsBuild) {p : F} (h : p.isUnit = true) :
    (mapBinFraction c p : Int) = F.rhaz (F.mul p (F.ofInt c.h)) := by
  have hsmall : c.h ≤ 2 ^ 24 := by
    have := hc.h_succ_lt_n
    have := hc.nHigh
    omega
  obtain ⟨m, hm, hunits⟩ := F.ofInt_small hsmall
  have hprod : F.Between 0 m.units (F.mul p (F.ofInt c.h)) := by
    refine (F.isUnit_between h).mul ⟨m, hm, Nat.le_refl _, Nat.le_refl _⟩ F.isDatum_zero ⟨m, rfl⟩ ?_ ?_
    · simp
    · rw [Nat.mul_comm]
  exact Int.toNat_of_nonneg (F.rhaz_nonneg hprod)

/-- A published field follows the curve of its rule. -/
theorem publish_followsCurve {c : Cfg} (hc : c.IsBuild) {p : F} (h : p.isUnit = true) (m : Mapped) (i : ParamIndex) :
    (publish c p m i).FollowsCurve c p i := by
  cases i with
  | stretch => exact mapStretch_eq_curve c h
  | pitch => exact mapPitch_eq_curve c h
  | freeze => exact rfl
  | gthr => exact rfl
  | glo => exact mapBinFraction_eq_curve hc h
  | ghi => exact mapBinFraction_eq_curve hc h
  | smear => exact rfl

/-! ### Parameter registers -/

theorem ParamRegs.get_set (r : ParamRegs) (v : F) (i j : ParamIndex) :
    (r.set v i).get j = if j = i then v else r.get j := by
  cases i <;> cases j <;> rfl

theorem ParamRegs.set_get (r : ParamRegs) (i : ParamIndex) : r.set (r.get i) i = r := by
  cases i <;> rfl

theorem ParamRegs.get_isUnit {r : ParamRegs} (h : r.isUnit = true) (i : ParamIndex) : (r.get i).isUnit = true := by
  simp only [ParamRegs.isUnit, Bool.and_eq_true] at h
  obtain ⟨⟨⟨⟨⟨⟨hstretch, hpitch⟩, hfreeze⟩, hgthr⟩, hglo⟩, hghi⟩, hsmear⟩ := h
  cases i <;> assumption

theorem publish_agreeBut (c : Cfg) (v : F) (m : Mapped) (i : ParamIndex) : m.AgreeBut (publish c v m i) i := by
  cases i <;> rfl

/-- A mapped set is each of its fields published. -/
theorem publish_get (c : Cfg) (r : ParamRegs) (i : ParamIndex) :
    publish c (r.get i) (mappedOf c r) i = mappedOf c r := by
  rw [publish_mappedOf, ParamRegs.set_get]

theorem write_param {s : State} {a : BitVec 22} {i : ParamIndex} (u : Word) (h : paramAt a.toNat = some i) :
    access (.write a u) s = .next (paramWrite i u s) := by
  obtain ⟨hlow, hhigh⟩ := paramAt_range h
  show memWrite a u s = _
  rw [memWrite_plain u s (by omega), plainWrite, if_neg (by omega), h]

/-- A finite write stores the clamped value, and counts it where it lay outside [0, 1] (47_facade.md R230). -/
theorem paramWrite_of_finite {s : State} {u : Word} (i : ParamIndex) (h : (F.ofBits u).isFinite = true) :
    paramWrite i u s = storeParam i (clampUnit (F.ofBits u))
      { s with diagPor := if outsideUnit (F.ofBits u) then satAdd s.diagPor 1 else s.diagPor } := by
  rcases paramWrite_cases i u s with ⟨hnot, -⟩ | ⟨-, hout, heq⟩ | ⟨-, hin, heq⟩
  · exact absurd (hnot.symm.trans h) Bool.false_ne_true
  · rw [heq, if_pos hout]
    rfl
  · rw [heq, if_neg (by simp [hin])]

theorem paramWrite_of_nonFinite {s : State} {u : Word} (i : ParamIndex) (h : (F.ofBits u).isFinite = false) :
    paramWrite i u s = { s with diagPor := satAdd s.diagPor 1 } := by
  unfold paramWrite
  dsimp only
  rw [if_neg (by simp [h])]
  rfl

end Machine

open Machine

/-- Settles O55: what is stored is normalized, so what is published follows its rule's curve. -/
theorem parameterWriteClampsAndMaps : Obligations.ParameterWriteClampsAndMaps := by
  intro s i a u haddr v
  refine ⟨fun hv => ?_, fun hv => ?_⟩
  · rw [write_param u haddr, paramWrite_of_nonFinite i hv]
  · intro w
    have hunit : w.isUnit = true := clampUnit_isUnit hv
    refine ⟨_, (write_param u haddr).trans (congrArg _ (paramWrite_of_finite i hv)), hunit, ?_, fun j hj => ?_, rfl,
      publish_agreeBut s.cfg w s.pub i, fun hwf => publish_followsCurve (Cfg.isBuild hwf) hunit s.pub i, fun hpub => ?_,
      rfl, rfl⟩
    · exact (ParamRegs.get_set s.param w i i).trans (if_pos rfl)
    · exact (ParamRegs.get_set s.param w i j).trans (if_neg hj)
    · show publish s.cfg w s.pub i = mappedOf s.cfg (s.param.set w i)
      rw [hpub, publish_mappedOf]

/-- Settles O56: a mapped set is each of its fields published, and each lies in its range. -/
theorem mappingsStayInRange : Obligations.MappingsStayInRange := by
  intro c r hwf hunit
  refine ⟨fun i => ?_, mappedOf_inRange (Cfg.isBuild hwf) hunit⟩
  rw [← publish_get c r i]
  exact publish_followsCurve (Cfg.isBuild hwf) (ParamRegs.get_isUnit hunit i) (mappedOf c r) i

end Sys2Proof
end

section
/-! SUPPORT. Steps never stop (60_exceptions.md R259) and the output is finite (46_overlap_add.md R213): where every
access ends, and what `POP` and `PROCESS` leave in the elements of `BUF` they wrote. -/

namespace Sys2Proof

namespace Machine

/-! ### Accesses and steps end in a next state -/

theorem memWrite_next (addr : BitVec 22) (v : Word) (s : State) : ∃ t, memWrite addr v s = .next t := by
  rcases memWrite_cases addr v s with ⟨-, i, -, hm⟩ | ⟨-, _, -, hm⟩ | ⟨-, hm⟩
  · rw [hm]
    exact exec_next i s
  · exact ⟨_, hm⟩
  · exact ⟨_, hm⟩

theorem access_next (a : HostAccess) (s : State) : ∃ t, access a s = .next t := by
  rcases access_cases a s with ⟨_, ha⟩ | ⟨addr, v, -, ha⟩ | ha | ⟨-, ha⟩
  · exact ⟨_, ha⟩
  · rw [ha]
    exact memWrite_next addr v s
  · exact ⟨_, ha⟩
  · exact ⟨_, ha⟩

theorem step_next {s : State} (hwf : s.cfg.wf = true) : ∃ t, step s = .next t := by
  rw [step, if_pos hwf, performNext]
  split
  · exact ⟨_, rfl⟩
  · exact access_next _ _

/-! ### The build is constant (00_scope.md R6) -/

theorem plainWrite_cfg (addr : BitVec 22) (v : Word) (s : State) : (plainWrite addr v s).cfg = s.cfg := by
  rcases plainWrite_cases addr v s with ⟨-, heq⟩ | ⟨i, -, heq⟩ | ⟨i, -, -, heq⟩ | heq
  · rw [heq]
  · rw [heq]
    rcases paramWrite_cases i v s with ⟨-, heq'⟩ | ⟨-, -, heq'⟩ | ⟨-, -, heq'⟩ <;> simp [heq']
  · rw [heq]
    rfl
  · rw [heq]

theorem exec_cfg {i : Instr} {s t : State} (h : exec i s = .next t) : t.cfg = s.cfg := by
  obtain ⟨r, u, hu, rfl⟩ := exec_finishes h
  exact hu.cfg

theorem step_cfg {s t : State} (h : step s = .next t) : t.cfg = s.cfg :=
  step_keeps (P := fun u => u.cfg = s.cfg) (fun _ _ hu => hu) (fun _ _ hu => hu)
    (fun u addr v hu => (plainWrite_cfg addr v u).trans hu) (fun _ hu => hu)
    (fun _ _ _ hu hexec => (exec_cfg hexec).trans hu) (fun _ hu => hu) rfl h

/-! ### What `POP` stores (R213) -/

/-- The four bytes of `BUF[i]` have been written, with the word of a finite datum. -/
def Memory.HoldsFinite (m : Memory) (i : Nat) : Prop :=
  ∃ a : F, a.isFinite = true ∧ ∀ b, b < 4 → Memory.readByte m (bufByteAddr i b) = some (byteOf a.toBits b)

/-- An element that holds a finite datum reads as that datum, whatever has been drawn for unwritten bytes. -/
theorem Memory.HoldsFinite.bufWord_isFinite {s : State} {i : Nat} (h : s.buf.HoldsFinite i) :
    (F.ofBits (s.bufWord i)).isFinite = true := by
  obtain ⟨a, ha, hbytes⟩ := h
  have hb : ∀ b, b < 4 → s.bufByte (bufByteAddr i b) = byteOf a.toBits b := fun b hb => by
    rw [State.bufByte, hbytes b hb, Option.getD_some]
  rw [State.bufWord, hb 0 (by decide), hb 1 (by decide), hb 2 (by decide), hb 3 (by decide), wordOf_byteOf,
    F.ofBits_toBits ha]
  exact ha

theorem Memory.holdsFinite_writeWord_self (m : Memory) (i : Nat) {a : F} (ha : a.isFinite = true) :
    (Memory.writeWord m i a.toBits).HoldsFinite i := by
  refine ⟨a, ha, fun b hb => ?_⟩
  rw [Memory.readByte_writeWord, if_pos (by simp only [bufByteAddr]; omega)]
  congr 2
  simp only [bufByteAddr]
  omega

theorem Memory.HoldsFinite.writeWord_ne {m : Memory} {i j : Nat} (w : Word) (h : m.HoldsFinite j) (hne : j ≠ i) :
    (Memory.writeWord m i w).HoldsFinite j := by
  obtain ⟨a, ha, hbytes⟩ := h
  refine ⟨a, ha, fun b hb => ?_⟩
  rw [Memory.readByte_writeWord, if_neg (by simp only [bufByteAddr]; omega)]
  exact hbytes b hb

/-- `POP i` writes a finite datum to `BUF[i]`: +0, or the cell's sample where that is finite. -/
theorem bodyPop_buf (i : Nat) (s : State) :
    ∃ a : F, a.isFinite = true ∧ (bodyPop i s).buf = Memory.writeWord s.buf i a.toBits := by
  unfold bodyPop emitSample
  split
  · exact ⟨.zero, rfl, rfl⟩
  · split
    · exact ⟨.zero, rfl, rfl⟩
    · split
      · next hfinite => exact ⟨_, hfinite, rfl⟩
      · exact ⟨.zero, rfl, rfl⟩

theorem processSample_writes_buf (i : Nat) (s : State) :
    ∃ a : F, a.isFinite = true ∧ (processSample i s).buf = Memory.writeWord s.buf i a.toBits := by
  obtain ⟨a, ha, hbuf⟩ := bodyPop_buf i (frameIfDue (bodyPush i s))
  rw [frameIfDue_buf] at hbuf
  exact ⟨a, ha, hbuf⟩

theorem holdsFinite_bodyPop (i : Nat) (s : State) : (bodyPop i s).buf.HoldsFinite i := by
  obtain ⟨a, ha, hbuf⟩ := bodyPop_buf i s
  rw [hbuf]
  exact Memory.holdsFinite_writeWord_self s.buf i ha

/-- Each pass of the block loop writes its own element and leaves the elements written before it. -/
theorem holdsFinite_bodyProcess (n : Nat) (s : State) : ∀ i, i < n → (bodyProcess n s).buf.HoldsFinite i := by
  refine forRange_induction (P := fun k (t : State) => ∀ i, i < k → t.buf.HoldsFinite i)
    (fun _ hi => absurd hi (Nat.not_lt_zero _)) ?_
  intro k t _ ht i hi
  obtain ⟨a, ha, hbuf⟩ := processSample_writes_buf k t
  rw [hbuf]
  rcases Nat.lt_succ_iff_lt_or_eq.1 hi with hlt | rfl
  · exact (ht i hlt).writeWord_ne _ hlt.ne
  · exact Memory.holdsFinite_writeWord_self t.buf i ha

/-- A pipeline command that ends `OK` has run its body. -/
theorem exec_ok_runs {i : Instr} {s t : State} (hneeds : needsPrepared i = true) (h : exec i s = .next t)
    (hok : t.result = .ok) : t = finish .ok (pipelineBody i s) := by
  rw [exec_eq_pipelineCommand s hneeds] at h
  rcases pipelineCommand_cases h with ⟨-, rfl⟩ | ⟨-, -, rfl⟩ | ⟨-, -, rfl⟩
  · cases hok
  · cases hok
  · rfl

end Machine

open Machine

/-- Settles O6: every access of a build ends in a next state, and none changes the configuration. -/
theorem onlyBrokenBuildStops : Obligations.OnlyBrokenBuildStops := by
  intro s
  refine ⟨fun hwf => ?_, fun hbroken => ?_⟩
  · obtain ⟨t, ht⟩ := step_next hwf
    exact ⟨t, ht, step_cfg ht⟩
  · rw [step, if_neg (by rw [hbroken]; decide)]

/-- Settles O48: what `POP` stores is finite, and in `PROCESS` each sample's `POP` has its own element. -/
theorem outputIsFinite : Obligations.OutputIsFinite := by
  intro s t
  refine ⟨fun i hexec hok => ?_, fun n hexec hok i hi => ?_⟩
  · rw [exec_ok_runs rfl hexec hok]
    exact (holdsFinite_bodyPop i s).bufWord_isFinite
  · rw [exec_ok_runs rfl hexec hok]
    exact (holdsFinite_bodyProcess n s i hi).bufWord_isFinite

end Sys2Proof
end

section
/-! SUPPORT. Two runs from equal `PREPARE`s (70_reset_and_hazards.md R284): what only the host looks at never comes back
into the engine, so what an access leaves of the rest is a function of the rest alone. -/

namespace Sys2Proof

namespace Machine

/-! ### What the engine works on -/

/-- `s` without what only the host looks at: the end of the last command, the guard counters, the normalized parameters
(the engine takes `PUB`), the last word read and the accesses still to come. -/
def engineOf (s : State) : State :=
  { s with
    result := .ok, cmderr := false, cseq := 0, diagNi := 0, diagBbv := 0, diagPor := 0, param := .reset, pending := []
    rdata := 0 }

/-- What `f` leaves of the engine depends on the engine alone. -/
def HostBlind (f : State → State) : Prop := ∀ s, engineOf (f (engineOf s)) = engineOf (f s)

theorem buf_avail_of_engineOf_eq {s t : State} (h : engineOf s = engineOf t) : s.buf = t.buf ∧ s.avail = t.avail := by
  have hbuf : (engineOf s).buf = (engineOf t).buf := by rw [h]
  have havail : (engineOf s).avail = (engineOf t).avail := by rw [h]
  exact ⟨hbuf, havail⟩

theorem HostBlind.congr {f : State → State} (h : HostBlind f) {s t : State} (heq : engineOf s = engineOf t) :
    engineOf (f s) = engineOf (f t) := by
  rw [← h s, heq, h t]

theorem hostBlind_id : HostBlind fun s => s := fun _ => rfl

theorem HostBlind.comp {f g : State → State} (hg : HostBlind g) (hf : HostBlind f) : HostBlind fun s => g (f s) :=
  fun s => hg.congr (hf s)

/-- A function that first reads some of the engine's state. -/
theorem HostBlind.reading {α : Type} {f : α → State → State} (h : ∀ a, HostBlind (f a)) (g : State → α)
    (hg : ∀ s, g (engineOf s) = g s) : HostBlind fun s => f (g s) s := by
  intro s
  dsimp only
  rw [hg s]
  exact h (g s) s

theorem hostBlind_ite {c : State → Prop} [∀ s, Decidable (c s)] {f g : State → State}
    (hc : ∀ s, c (engineOf s) ↔ c s) (hf : HostBlind f) (hg : HostBlind g) :
    HostBlind fun s => if c s then f s else g s := by
  intro s
  dsimp only
  rw [if_congr (hc s) rfl rfl, apply_ite engineOf, apply_ite engineOf, hf s, hg s]

theorem HostBlind.forRange {f : Nat → State → State} (h : ∀ k, HostBlind (f k)) (m : Nat) :
    HostBlind (forRange m f) := by
  induction m with
  | zero => exact hostBlind_id
  | succ m ih => exact (h m).comp ih

theorem HostBlind.forSpan {f : Nat → State → State} (h : ∀ k, HostBlind (f k)) (lo hi : Nat) :
    HostBlind (forSpan lo hi f) := HostBlind.forRange (fun j => h (lo + j)) _

/-! ### The bodies of commands -/

theorem hostBlind_raiseGuard (g : Guard) : HostBlind (raiseGuard g) := by
  intro s
  cases g <;> rfl

theorem hostBlind_stages (inv : Bool) : HostBlind (stages inv) := by
  have hstage (stage : Nat) : HostBlind fun s => forRange s.cfg.h (fun q s => bodyBfly inv stage q s) s :=
    HostBlind.reading (HostBlind.forRange fun _ _ => rfl) (fun s => s.cfg.h) fun _ => rfl
  exact HostBlind.reading (HostBlind.forSpan hstage 1) (fun s => s.cfg.log2n) fun _ => rfl

theorem hostBlind_fftf : HostBlind bodyFftf :=
  HostBlind.comp (g := bodyZim) (fun _ => rfl) ((hostBlind_stages false).comp (f := bodyLoadx) fun _ => rfl)

theorem hostBlind_ffti : HostBlind bodyFfti :=
  HostBlind.comp (g := bodyScaley) (fun _ => rfl) ((hostBlind_stages true).comp (f := bodyBitrev) fun _ => rfl)

theorem hostBlind_acceptFrame : HostBlind acceptFrame :=
  hostBlind_ite (c := fun s => frozen s = true) (fun _ => Iff.rfl) hostBlind_id
    (hostBlind_ite (c := fun s => frameValid s = true) (fun _ => Iff.rfl) (fun _ => rfl) (hostBlind_raiseGuard _))

theorem hostBlind_depositBin (ratio : F) (k : Nat) : HostBlind (depositBin ratio k) :=
  hostBlind_ite (c := fun s => 0 ≤ synthBin ratio k ∧ synthBin ratio k ≤ (s.cfg.h : Int)) (fun _ => Iff.rfl)
    (fun _ => rfl) hostBlind_id

theorem hostBlind_mapBins : HostBlind mapBins := by
  have hdeposits (read : F × Nat) : HostBlind fun s => forRange read.2 (depositBin read.1) (clearSynthBins s) :=
    (HostBlind.forRange (hostBlind_depositBin read.1) read.2).comp (f := clearSynthBins) fun _ => rfl
  exact HostBlind.comp (g := clearSynthDc) (fun _ => rfl)
    (HostBlind.reading hdeposits (fun s => (pitchRatio s, s.cfg.h + 1)) fun _ => rfl)

theorem hostBlind_gateBins : HostBlind gateBins :=
  hostBlind_ite (c := fun s => s.variant = .gate) (fun _ => Iff.rfl) (fun _ => rfl) hostBlind_id

theorem hostBlind_modify : HostBlind bodyModify :=
  HostBlind.comp (g := setHop) (fun _ => rfl)
    (hostBlind_gateBins.comp (hostBlind_mapBins.comp hostBlind_acceptFrame))

theorem hostBlind_choosePhase (k : Nat) : HostBlind (choosePhase k) :=
  hostBlind_ite (c := fun s => s.variant = .smear ∧ 1 ≤ k ∧ k + 1 ≤ s.cfg.h) (fun _ => Iff.rfl) (fun _ => rfl)
    fun _ => rfl

theorem hostBlind_herm : HostBlind bodyHerm := by
  have hbin (k : Nat) : HostBlind fun s => rotateBin k (choosePhase k s) :=
    HostBlind.comp (g := rotateBin k) (fun _ => rfl) (hostBlind_choosePhase k)
  have hbins : HostBlind fun s => forRange (s.cfg.h + 1) (fun k s => rotateBin k (choosePhase k s)) s :=
    HostBlind.reading (HostBlind.forRange hbin) (fun s => s.cfg.h + 1) fun _ => rfl
  have hmirror : HostBlind fun s => forSpan (s.cfg.h + 1) (s.cfg.n - 1) mirrorBin s :=
    HostBlind.reading (f := fun (ends : Nat × Nat) => forSpan ends.1 ends.2 mirrorBin)
      (fun ends => HostBlind.forSpan (fun _ _ => rfl) ends.1 ends.2) (fun s => (s.cfg.h + 1, s.cfg.n - 1)) fun _ => rfl
  exact hmirror.comp (HostBlind.comp (g := forceReal) (fun _ => rfl) hbins)

theorem hostBlind_accumulate : HostBlind accumulate :=
  hostBlind_ite (c := fun s => frameFinite s = true) (fun _ => Iff.rfl) (fun _ => rfl) (hostBlind_raiseGuard _)

theorem hostBlind_settle : HostBlind settle :=
  hostBlind_ite (c := fun s => s.lstate = .warming ∧ s.cfg.lat ≤ s.produced.toNat) (fun _ => Iff.rfl)
    (fun _ => rfl) hostBlind_id

theorem hostBlind_olaw : HostBlind bodyOlaw :=
  hostBlind_ite (c := fun s => ringFull s = true) (fun _ => Iff.rfl) (hostBlind_raiseGuard _)
    (hostBlind_settle.comp (HostBlind.comp (g := advanceWriter) (fun _ => rfl) hostBlind_accumulate))

theorem hostBlind_emitSample (i : Nat) (v : F) : HostBlind (emitSample i v) :=
  hostBlind_ite (c := fun _ => v.isFinite = true) (fun _ => Iff.rfl) (fun _ => rfl) fun _ => rfl

theorem hostBlind_pop (i : Nat) : HostBlind (bodyPop i) := by
  have hcell (v : F) : HostBlind fun s => emitSample i v (consumeCell s) :=
    (hostBlind_emitSample i v).comp (f := consumeCell) fun _ => rfl
  exact hostBlind_ite (c := fun s => 0 < s.preroll) (fun _ => Iff.rfl) (fun _ => rfl)
    (hostBlind_ite (c := fun s => s.avail = 0) (fun _ => Iff.rfl) (fun _ => rfl)
      (HostBlind.reading hcell (fun s => cellSample s.cfg (Arr.get s.ola s.rpos) (Arr.get s.env s.rpos)) fun _ => rfl))

theorem hostBlind_frameParts : HostBlind frameParts :=
  hostBlind_olaw.comp <| hostBlind_ffti.comp <| hostBlind_herm.comp <|
    HostBlind.comp (g := bodyAccum) (fun _ => rfl) <| hostBlind_modify.comp <|
    HostBlind.comp (g := bodyTrack) (fun _ => rfl) <| HostBlind.comp (g := bodyPolar) (fun _ => rfl) <|
    hostBlind_fftf.comp (f := bodyExtract) fun _ => rfl

/-- The count at the end of `FRAME` (47_facade.md R226). -/
def countFrame (s : State) : State := { s with framecnt := s.framecnt + 1 }

theorem bodyFrame_eq_countFrame (s : State) : bodyFrame s = countFrame (frameParts s) := bodyFrame_eq s

theorem hostBlind_frame : HostBlind bodyFrame := by
  rw [funext bodyFrame_eq_countFrame]
  exact HostBlind.comp (g := countFrame) (fun _ => rfl) hostBlind_frameParts

theorem hostBlind_push (i : Nat) : HostBlind (bodyPush i) := fun _ => rfl

theorem hostBlind_frameIfDue : HostBlind frameIfDue :=
  hostBlind_ite (c := fun s => s.hopcnt = s.cfg.ha) (fun _ => Iff.rfl) hostBlind_frame hostBlind_id

theorem hostBlind_process (n : Nat) : HostBlind (bodyProcess n) := by
  have hsample (i : Nat) : HostBlind (processSample i) :=
    (hostBlind_pop i).comp (hostBlind_frameIfDue.comp (hostBlind_push i))
  exact (HostBlind.forRange hsample n).comp (f := latch) fun _ => rfl

theorem hostBlind_pipelineBody (i : Instr) : HostBlind (pipelineBody i) := by
  cases i with
  | process n => exact hostBlind_process n
  | frame => exact hostBlind_frame
  | push k => exact hostBlind_push k
  | fftf => exact hostBlind_fftf
  | ffti => exact hostBlind_ffti
  | modify => exact hostBlind_modify
  | herm => exact hostBlind_herm
  | olaw => exact hostBlind_olaw
  | pop k => exact hostBlind_pop k
  | nop | prepare | reset | extract | loadx | bitrev | bfly | zim | scaley | polar | track | accum =>
    exact fun _ => rfl

/-! ### Commands, accesses and runs -/

/-- A total operation on the state whose effect on the engine depends on the engine alone. -/
def ActsOnEngine (op : State → Host.Outcome State Fault Refusal) : Prop :=
  ∃ f : State → State, HostBlind f ∧ ∀ s, op s = .next (f s)

theorem HostBlind.finish {f : State → State} (h : HostBlind f) (r : ResultCode) : HostBlind fun s => finish r (f s) :=
  HostBlind.comp (g := Machine.finish r) (fun _ => rfl) h

theorem actsOnEngine_pipeline {i : Instr} (hneeds : needsPrepared i = true) : ActsOnEngine (exec i) := by
  refine ⟨fun s => if s.lstate = .cold then finish .notPrepared s
    else if operandsOk s i = true then finish .ok (pipelineBody i s) else finish .badArg s, ?_, fun s => ?_⟩
  · refine hostBlind_ite (c := fun s => s.lstate = .cold) (fun _ => Iff.rfl) (hostBlind_id.finish _)
      (hostBlind_ite (c := fun s => operandsOk s i = true) (fun s => ?_) ((hostBlind_pipelineBody i).finish _)
        (hostBlind_id.finish _))
    cases i <;> exact Iff.rfl
  · rw [exec_eq_pipelineCommand s hneeds, pipelineCommand, apply_ite Host.Outcome.next, apply_ite Host.Outcome.next]

/-- What `PREPARE` leaves, by the variant it may construct (47_facade.md R224). -/
def prepareOutcome (m : Nat) (variant : Option Variant) (s : State) : State :=
  variant.elim (finish .prepFail { s with lstate := .cold }) fun v => finish .ok (prepared v m s)

theorem actsOnEngine_prepare (v m : Nat) : ActsOnEngine (exec (.prepare v m)) := by
  refine ⟨fun s => prepareOutcome m (preparable s v m) s, HostBlind.reading (fun variant => ?_) _ fun _ => rfl,
    fun s => ?_⟩
  · cases variant <;> exact fun _ => rfl
  · dsimp only
    cases hprep : preparable s v m with
    | some variant => exact exec_prepare_of_some hprep
    | none =>
      rw [exec_prepare_of_none hprep, ← finish_failedPrepare]
      rfl

theorem actsOnEngine_exec (i : Instr) : ActsOnEngine (exec i) := by
  cases i with
  | nop => exact ⟨_, hostBlind_id.finish .ok, fun _ => rfl⟩
  | prepare v m => exact actsOnEngine_prepare v m
  | reset => exact ⟨_, HostBlind.finish (f := bodyReset) (fun _ => rfl) .ok, fun _ => rfl⟩
  | _ => exact actsOnEngine_pipeline rfl

theorem hostBlind_paramWrite (i : ParamIndex) (u : Word) : HostBlind (paramWrite i u) := by
  have hcount : HostBlind fun s => if outsideUnit (F.ofBits u) = true then raiseGuard .parameterOutOfRange s else s :=
    hostBlind_ite (c := fun _ => outsideUnit (F.ofBits u) = true) (fun _ => Iff.rfl) (hostBlind_raiseGuard _)
      hostBlind_id
  exact hostBlind_ite (c := fun _ => (F.ofBits u).isFinite = true) (fun _ => Iff.rfl)
    (HostBlind.comp (g := storeParam i (clampUnit (F.ofBits u))) (fun _ => rfl) hcount) (hostBlind_raiseGuard _)

theorem hostBlind_plainWrite (addr : BitVec 22) (v : Word) : HostBlind (plainWrite addr v) := by
  refine hostBlind_ite (c := fun _ => addr.toNat = 0x005) (fun _ => Iff.rfl) (fun _ => rfl) ?_
  cases paramAt addr.toNat with
  | some i => exact hostBlind_paramWrite i v
  | none =>
    intro s
    dsimp only
    have hindex : bufIndex (engineOf s).cfg addr.toNat = bufIndex s.cfg addr.toNat := rfl
    rw [hindex]
    cases bufIndex s.cfg addr.toNat <;> rfl

theorem actsOnEngine_memWrite (addr : BitVec 22) (v : Word) : ActsOnEngine (memWrite addr v) := by
  by_cases hcmd : addr.toNat = 0x000
  · have hexec : memWrite addr v = executeWord v := funext fun s => if_pos hcmd
    rw [hexec]
    cases hdec : decode v with
    | ok i =>
      have hrun : executeWord v = exec i := funext fun s => executeWord_ok s hdec
      rw [hrun]
      exact actsOnEngine_exec i
    | error e => exact ⟨refusedWith .illegal, fun _ => rfl, fun s => executeWord_error s hdec⟩
  · exact ⟨plainWrite addr v, hostBlind_plainWrite addr v, fun s => memWrite_plain v s hcmd⟩

theorem actsOnEngine_access (a : HostAccess) : ActsOnEngine (access a) := by
  cases a with
  | read addr => exact ⟨fun s => { s with rdata := memRead s addr }, fun _ => rfl, fun _ => rfl⟩
  | write addr v => exact actsOnEngine_memWrite addr v
  | busRead b size =>
    cases hb : bridged b size with
    | some addr => exact ⟨fun s => { s with rdata := memRead s addr }, fun _ => rfl, fun _ => by rw [access, hb]⟩
    | none => exact ⟨fun s => { s with rdata := 0 }, fun _ => rfl, fun _ => by rw [access, hb]⟩
  | busWrite b size v =>
    cases hb : bridged b size with
    | some addr =>
      have hwrite : access (.busWrite b size v) = memWrite addr v := funext fun s => by rw [access, hb]
      rw [hwrite]
      exact actsOnEngine_memWrite addr v
    | none => exact ⟨fun s => s, hostBlind_id, fun _ => by rw [access, hb]⟩
  | hardwareReset => exact ⟨hardwareReset, fun _ => rfl, fun _ => rfl⟩

theorem ActsOnEngine.congr {op : State → Host.Outcome State Fault Refusal} (h : ActsOnEngine op) {s s' t t' : State}
    (heq : engineOf s = engineOf s') (ht : op s = .next t) (ht' : op s' = .next t') : engineOf t = engineOf t' := by
  obtain ⟨f, hf, hop⟩ := h
  rw [hop] at ht ht'
  cases ht
  cases ht'
  exact hf.congr heq

/-- A run that performs its first access goes on from the state that access leaves. -/
theorem performAll_cons {a : HostAccess} {as : List HostAccess} {s t : State} (h : performAll (a :: as) s = some t) :
    ∃ u, access a s = .next u ∧ performAll as u = some t := by
  rw [performAll] at h
  split at h
  · next u hu => exact ⟨u, hu, h⟩
  · cases h
  · cases h

/-- The same accesses on equal engines leave equal engines. -/
theorem performAll_congr {as : List HostAccess} {s s' t t' : State} (heq : engineOf s = engineOf s')
    (h : performAll as s = some t) (h' : performAll as s' = some t') : engineOf t = engineOf t' := by
  induction as generalizing s s' with
  | nil =>
    cases h
    cases h'
    exact heq
  | cons a as ih =>
    obtain ⟨u, ha, hrest⟩ := performAll_cons h
    obtain ⟨u', ha', hrest'⟩ := performAll_cons h'
    exact ih ((actsOnEngine_access a).congr heq ha ha') hrest hrest'

/-! ### Equal `PREPARE`s -/

theorem preparable_congr {s s' : State} (hcfg : s.cfg = s'.cfg) (harg : s.arg0 = s'.arg0) (v m : Nat) :
    preparable s v m = preparable s' v m := by
  rw [preparable, preparable, hcfg, harg]

/-- A successful `PREPARE` leaves of the engine only what its operands, `PUB`, `ARG0`, `BUF` and its draws determine. -/
theorem engineOf_prepared {s s' : State} (hcfg : s.cfg = s'.cfg) (hpub : s.pub = s'.pub) (harg : s.arg0 = s'.arg0)
    (hbuf : s.buf = s'.buf) (hdraws : s.draws = s'.draws) (variant : Variant) (m : Nat) :
    engineOf (prepared variant m s) = engineOf (prepared variant m s') := by
  simp only [engineOf, prepared, clearWorkingState, hcfg, hpub, harg, hbuf, hdraws]

end Machine

open Machine

/-- Settles O52: a successful `PREPARE` makes the two engines equal, and the same accesses keep them equal. -/
theorem preparedRunsAgree : Obligations.PreparedRunsAgree := by
  intro s s' p p' t t' v m as hcfg hpub harg hbuf hdraws hp hp' hok ht ht'
  have hengines : engineOf p = engineOf p' := by
    cases hprep : preparable s v m with
    | some variant =>
      rw [exec_prepare_of_some hprep] at hp
      rw [exec_prepare_of_some ((preparable_congr hcfg harg v m).symm.trans hprep)] at hp'
      cases hp
      cases hp'
      exact engineOf_prepared hcfg hpub harg hbuf hdraws variant m
    | none =>
      rw [exec_prepare_of_none hprep] at hp
      cases hp
      cases hok
  exact buf_avail_of_engineOf_eq (performAll_congr hengines ht ht')

end Sys2Proof
end
